-- ==== Sys2Proof/Word.lean ====
section
/-! DEFINITION. The word types of the machine (00_scope.md R4, R5): a byte, the program counter, a register index. -/

namespace Sys2Proof

/-- A register, memory cell, immediate, opcode or flags byte: an unsigned value 0..255
(00_scope.md R4 `XLEN`, `CELL_WIDTH`, `FL_WIDTH`; 10_state.md R12). -/
abbrev Byte := BitVec 8

/-- The program counter: 9 bits, legal values 0 to 256 (10_state.md R18, the spec's decision D5; log 4). -/
abbrev Pc := BitVec 9

/-- The index of a general register, 0 to 7 (10_state.md R11). -/
abbrev RegIdx := Fin 8

/-- `zext_9(v)`: a byte placed in the 9-bit pc (00_scope.md R5). -/
abbrev zext9 (v : Byte) : Pc := v.setWidth 9

end Sys2Proof
end

