-- ==== Sys2Proof/Machine/Arith.lean ====
section
/-! DEFINITION. The arithmetic of the ALU family on bytes: exact on non-negative integers, then reduced modulo 256 (41_alu.md R112). -/

namespace Sys2Proof.Machine

/-- A result kept modulo 256 (41_alu.md R100). -/
def reduce (n : Nat) : Byte :=
  BitVec.ofNat 8 (n % 256)

/-- 41_alu.md R101, R102. -/
def addBytes (x y : Byte) : Byte :=
  reduce (x.toNat + y.toNat)

/-- 41_alu.md R106. -/
def mulBytes (x y : Byte) : Byte :=
  reduce (x.toNat * y.toNat)

/-- The unsigned remainder of 41_alu.md R105; the caller has seen that the divisor is not 0. -/
def modBytes (x y : Byte) : Byte :=
  reduce (x.toNat % y.toNat)

/-- `255 - x`, 41_alu.md R107. -/
def notByte (x : Byte) : Byte :=
  reduce (255 - x.toNat)

/-- 41_alu.md R109: the amount is the whole byte, not reduced modulo 8. -/
def shlBytes (x amount : Byte) : Byte :=
  reduce (x.toNat <<< amount.toNat)

/-- 41_alu.md R110: zeros enter at bit 7, the amount is the whole byte. -/
def shrBytes (x amount : Byte) : Byte :=
  reduce (x.toNat >>> amount.toNat)

/-- 41_alu.md R103. -/
def andBytes (x y : Byte) : Byte := x &&& y

/-- 41_alu.md R108. -/
def orBytes (x y : Byte) : Byte := x ||| y

/-- 41_alu.md R111. -/
def xorBytes (x y : Byte) : Byte := x ^^^ y

end Sys2Proof.Machine
end

