-- ==== Sys2Proof/Machine/Flags.lean ====
section
/-! DEFINITION. The flags byte: its three bits (10_state.md R21) and the one computation of it, CMP's (41_alu.md R104). -/

namespace Sys2Proof.Machine

/-- `FL.E`, bit 0: Equal. -/
def flagE (fl : Byte) : Bool :=
  fl.getLsbD 0

/-- `FL.G`, bit 1: Greater-Than. -/
def flagG (fl : Byte) : Bool :=
  fl.getLsbD 1

/-- `FL.L`, bit 2: Less-Than. -/
def flagL (fl : Byte) : Bool :=
  fl.getLsbD 2

/-- The whole flags byte after comparing `left` with `right`, both unsigned. -/
def compareFlags (left right : Byte) : Byte :=
  if left.toNat = right.toNat then 0b00000001
  else if left.toNat > right.toNat then 0b00000010
  else 0b00000100

end Sys2Proof.Machine
end

