-- ==== Sys2Proof/Config.lean ====
section
/-! DEFINITION. The implementation parameters of 00_scope.md R4, each a field, and the values the spec gives them. -/

namespace Sys2Proof

/-- `MEM_OOB_POLICY`: what a step does when one of its three fetch addresses is outside memory.
The spec decides on one value (20_memory.md R41, 92_eei_decisions.md D3; log 2). -/
inductive MemOobPolicy where
  | fault
  deriving DecidableEq, Repr

/-- `REG_OOB_POLICY`: what an operand byte above 7 does where a register index is wanted.
The spec decides on one value (10_state.md R13, 92_eei_decisions.md D4; log 3). -/
inductive RegOobPolicy where
  | faultAtDecode
  deriving DecidableEq, Repr

/-- Every parameter of 00_scope.md R4 under the spec's own name. The 22 `OPC_` values are
parameters the source does not print (30_encoding.md R66; log 1). -/
structure Config where
  XLEN : Nat
  NUM_REGS : Nat
  SP_INDEX : Nat
  SP_RESET : Byte
  MEM_SIZE : Nat
  CELL_WIDTH : Nat
  ADDR_WIDTH : Nat
  PC_WIDTH : Nat
  FL_WIDTH : Nat
  /-- The mask of the family bit (1 = ALU family). -/
  FAMILY_BIT : Byte
  /-- The mask of the sets-PC bit. -/
  SETS_PC_BIT : Byte
  /-- The operand count is `(opcode >> OPERAND_COUNT_SHIFT) & OPERAND_COUNT_MASK`. -/
  OPERAND_COUNT_SHIFT : Nat
  OPERAND_COUNT_MASK : Byte
  MEM_OOB_POLICY : MemOobPolicy
  REG_OOB_POLICY : RegOobPolicy
  RESET_R0_R6 : Byte
  RESET_FL : Byte
  RESET_PC : Pc
  MEM_FILL : Byte
  HARDWARE_THREADS : Nat
  OPC_ADD : Byte
  OPC_ADDI : Byte
  OPC_AND : Byte
  OPC_CMP : Byte
  OPC_MOD : Byte
  OPC_MUL : Byte
  OPC_NOT : Byte
  OPC_OR : Byte
  OPC_SHL : Byte
  OPC_SHR : Byte
  OPC_XOR : Byte
  OPC_LDI : Byte
  OPC_PRN : Byte
  OPC_PUSH : Byte
  OPC_POP : Byte
  OPC_CALL : Byte
  OPC_RET : Byte
  OPC_JMP : Byte
  OPC_JEQ : Byte
  OPC_JNE : Byte
  OPC_ST : Byte
  OPC_HLT : Byte
  deriving DecidableEq, Repr

/-- The values of 00_scope.md R4 and 30_encoding.md R66. The low nibbles of the opcodes are
the spec's from general knowledge (D1) and `OPC_ADDI` is its own choice (D2); UNVERIFIED, log 1. -/
def config : Config where
  XLEN := 8
  NUM_REGS := 8
  SP_INDEX := 7
  SP_RESET := 0xF4
  MEM_SIZE := 256
  CELL_WIDTH := 8
  ADDR_WIDTH := 8
  PC_WIDTH := 9
  FL_WIDTH := 8
  FAMILY_BIT := 0b00100000
  SETS_PC_BIT := 0b00010000
  OPERAND_COUNT_SHIFT := 6
  OPERAND_COUNT_MASK := 0b11
  MEM_OOB_POLICY := .fault
  REG_OOB_POLICY := .faultAtDecode
  RESET_R0_R6 := 0x00
  RESET_FL := 0x00
  RESET_PC := 0
  MEM_FILL := 0x00
  HARDWARE_THREADS := 1
  OPC_ADD := 0xA0
  OPC_ADDI := 0xAE
  OPC_AND := 0xA8
  OPC_CMP := 0xA7
  OPC_MOD := 0xA4
  OPC_MUL := 0xA2
  OPC_NOT := 0x69
  OPC_OR := 0xAA
  OPC_SHL := 0xAC
  OPC_SHR := 0xAD
  OPC_XOR := 0xAB
  OPC_LDI := 0x82
  OPC_PRN := 0x47
  OPC_PUSH := 0x45
  OPC_POP := 0x46
  OPC_CALL := 0x50
  OPC_RET := 0x11
  OPC_JMP := 0x54
  OPC_JEQ := 0x55
  OPC_JNE := 0x56
  OPC_ST := 0x84
  OPC_HLT := 0x01

end Sys2Proof
end

