-- ==== Sys2Proof/Syntax.lean ====
section
/-! DEFINITION. The 22 instructions (00_scope.md R1), one constructor per row of spec/opcode_table.json. -/

namespace Sys2Proof

/-- An instruction with its operand bytes, in the order of the encoding (30_encoding.md R60, R63).
A register operand is kept as the WHOLE byte fetched: it is "not masked or truncated"
(30_encoding.md R64), and a byte above 7 is judged by the operand check, not by the decoder. -/
inductive Instr where
  -- ALU family (41_alu.md)
  | add (a b : Byte)
  | addi (a imm : Byte)
  | and (a b : Byte)
  | cmp (a b : Byte)
  | mod (a b : Byte)
  | mul (a b : Byte)
  | not (a : Byte)
  | or (a b : Byte)
  | shl (a b : Byte)
  | shr (a b : Byte)
  | xor (a b : Byte)
  -- control family (42_control.md)
  | ldi (a imm : Byte)
  | prn (a : Byte)
  | push (a : Byte)
  | pop (a : Byte)
  | call (a : Byte)
  | ret
  | jmp (a : Byte)
  | jeq (a : Byte)
  | jne (a : Byte)
  | st (a b : Byte)
  | hlt
  deriving DecidableEq, Repr

end Sys2Proof
end

