-- ==== Sys2Proof/WellFormed.lean ====
section
/-! DEFINITION. When an instruction's operands are legal: every byte its form uses as a register index names a register. -/

namespace Sys2Proof

/-- The operand bytes of an instruction that its form uses as register indices (30_encoding.md R63):
a for forms R, RR and RI; b for form RR; the immediate byte of form RI never. -/
def Instr.registerOperands : Instr → List Byte
  | .add a b => [a, b]
  | .addi a _ => [a]
  | .and a b => [a, b]
  | .cmp a b => [a, b]
  | .mod a b => [a, b]
  | .mul a b => [a, b]
  | .not a => [a]
  | .or a b => [a, b]
  | .shl a b => [a, b]
  | .shr a b => [a, b]
  | .xor a b => [a, b]
  | .ldi a _ => [a]
  | .prn a => [a]
  | .push a => [a]
  | .pop a => [a]
  | .call a => [a]
  | .ret => []
  | .jmp a => [a]
  | .jeq a => [a]
  | .jne a => [a]
  | .st a b => [a, b]
  | .hlt => []

/-- The operand condition of 40_engine.md R84: every register operand is at most 7. -/
def Instr.wf (i : Instr) : Bool :=
  i.registerOperands.all fun r => decide (r.toNat < config.NUM_REGS)

end Sys2Proof
end

