-- ==== Sys2Proof/Decode.lean ====
section
/-! DEFINITION. The opcode's fields, the two dispatch tables, the decoder (total, rejecting by name) and the encoder. -/

namespace Sys2Proof

/-! ## The fields of the opcode byte (30_encoding.md R61, 40_engine.md R82) -/

/-- `operand_count = (opcode >> 6) & 0b11`. -/
def operandCount (c : Config) (opcode : Byte) : Nat :=
  ((opcode >>> c.OPERAND_COUNT_SHIFT) &&& c.OPERAND_COUNT_MASK).toNat

/-- The family bit: set for the ALU family, clear for the control family. -/
def isAlu (c : Config) (opcode : Byte) : Bool :=
  opcode &&& c.FAMILY_BIT != 0

/-- The sets-PC bit: set when the instruction writes pc itself. -/
def setsPc (c : Config) (opcode : Byte) : Bool :=
  opcode &&& c.SETS_PC_BIT != 0

/-- The length of an instruction in bytes, from its opcode byte alone (30_encoding.md R62). -/
def instrLength (c : Config) (opcode : Byte) : Nat :=
  1 + operandCount c opcode

/-! ## The dispatch tables (30_encoding.md R66, R67; 40_engine.md R83)
A row holds an opcode and the instruction it selects, given the bytes at pc + 1 and pc + 2.
A row ignores the bytes its form does not have (30_encoding.md R62, R63). -/

/-- The 11 ALU-family opcodes. -/
def aluTable (c : Config) : List (Byte × (Byte → Byte → Instr)) :=
  [ (c.OPC_ADD, fun a b => .add a b),
    (c.OPC_ADDI, fun a b => .addi a b),
    (c.OPC_AND, fun a b => .and a b),
    (c.OPC_CMP, fun a b => .cmp a b),
    (c.OPC_MOD, fun a b => .mod a b),
    (c.OPC_MUL, fun a b => .mul a b),
    (c.OPC_NOT, fun a _ => .not a),
    (c.OPC_OR, fun a b => .or a b),
    (c.OPC_SHL, fun a b => .shl a b),
    (c.OPC_SHR, fun a b => .shr a b),
    (c.OPC_XOR, fun a b => .xor a b) ]

/-- The 11 control-family opcodes. -/
def controlTable (c : Config) : List (Byte × (Byte → Byte → Instr)) :=
  [ (c.OPC_LDI, fun a b => .ldi a b),
    (c.OPC_PRN, fun a _ => .prn a),
    (c.OPC_PUSH, fun a _ => .push a),
    (c.OPC_POP, fun a _ => .pop a),
    (c.OPC_CALL, fun a _ => .call a),
    (c.OPC_RET, fun _ _ => .ret),
    (c.OPC_JMP, fun a _ => .jmp a),
    (c.OPC_JEQ, fun a _ => .jeq a),
    (c.OPC_JNE, fun a _ => .jne a),
    (c.OPC_ST, fun a b => .st a b),
    (c.OPC_HLT, fun _ _ => .hlt) ]

/-- The first row whose opcode is exactly the byte sought. -/
def lookup (table : List (Byte × (Byte → Byte → Instr))) (opcode : Byte) :
    Option (Byte → Byte → Instr) :=
  match table with
  | [] => none
  | row :: rest => if row.1 = opcode then some row.2 else lookup rest opcode

/-- The two-stage dispatch of 30_encoding.md R67: classify by the family bit, then look the
opcode up by exact match in that family's table. -/
def dispatch (c : Config) (opcode : Byte) : Option (Byte → Byte → Instr) :=
  if isAlu c opcode then lookup (aluTable c) opcode else lookup (controlTable c) opcode

/-! ## The decoder -/

/-- Why the decoder rejects a byte sequence. `unrecognizedOpcode` becomes the fault of that name
(60_exceptions.md R141). `endOfBytes` is raised only for lists shorter than the instruction: the
machine always fetches three bytes (40_engine.md R81), so no step meets it; safe. -/
inductive Reject where
  | unrecognizedOpcode (opcode : Byte)
  | endOfBytes
  deriving DecidableEq, Repr

/-- The instruction at the head of a byte list, and the bytes after it (30_encoding.md R60, R62). -/
def decode (c : Config) (bytes : List Byte) : Except Reject (Instr × List Byte) :=
  match bytes with
  | [] => .error .endOfBytes
  | opcode :: rest =>
    match dispatch c opcode with
    | none => .error (.unrecognizedOpcode opcode)
    | some build =>
      if rest.length < operandCount c opcode then .error .endOfBytes
      else .ok (build (rest.getD 0 0) (rest.getD 1 0), rest.drop (operandCount c opcode))

/-! ## The encoder -/

/-- The opcode byte of an instruction (30_encoding.md R66). -/
def Instr.opcode (c : Config) : Instr → Byte
  | .add _ _ => c.OPC_ADD
  | .addi _ _ => c.OPC_ADDI
  | .and _ _ => c.OPC_AND
  | .cmp _ _ => c.OPC_CMP
  | .mod _ _ => c.OPC_MOD
  | .mul _ _ => c.OPC_MUL
  | .not _ => c.OPC_NOT
  | .or _ _ => c.OPC_OR
  | .shl _ _ => c.OPC_SHL
  | .shr _ _ => c.OPC_SHR
  | .xor _ _ => c.OPC_XOR
  | .ldi _ _ => c.OPC_LDI
  | .prn _ => c.OPC_PRN
  | .push _ => c.OPC_PUSH
  | .pop _ => c.OPC_POP
  | .call _ => c.OPC_CALL
  | .ret => c.OPC_RET
  | .jmp _ => c.OPC_JMP
  | .jeq _ => c.OPC_JEQ
  | .jne _ => c.OPC_JNE
  | .st _ _ => c.OPC_ST
  | .hlt => c.OPC_HLT

/-- The operand bytes of an instruction, operand a first (30_encoding.md R60, R63, R64). -/
def Instr.operandBytes : Instr → List Byte
  | .add a b => [a, b]
  | .addi a imm => [a, imm]
  | .and a b => [a, b]
  | .cmp a b => [a, b]
  | .mod a b => [a, b]
  | .mul a b => [a, b]
  | .not a => [a]
  | .or a b => [a, b]
  | .shl a b => [a, b]
  | .shr a b => [a, b]
  | .xor a b => [a, b]
  | .ldi a imm => [a, imm]
  | .prn a => [a]
  | .push a => [a]
  | .pop a => [a]
  | .call a => [a]
  | .ret => []
  | .jmp a => [a]
  | .jeq a => [a]
  | .jne a => [a]
  | .st a b => [a, b]
  | .hlt => []

/-- The bytes of an instruction in address order: the opcode, then its operand bytes. -/
def encode (c : Config) (i : Instr) : List Byte :=
  i.opcode c :: i.operandBytes

/-! ## Legal configurations (30_encoding.md R65, R68) -/

/-- The 22 opcode values, ALU family first. -/
def opcodes (c : Config) : List Byte :=
  [c.OPC_ADD, c.OPC_ADDI, c.OPC_AND, c.OPC_CMP, c.OPC_MOD, c.OPC_MUL, c.OPC_NOT, c.OPC_OR,
   c.OPC_SHL, c.OPC_SHR, c.OPC_XOR] ++
  [c.OPC_LDI, c.OPC_PRN, c.OPC_PUSH, c.OPC_POP, c.OPC_CALL, c.OPC_RET, c.OPC_JMP, c.OPC_JEQ,
   c.OPC_JNE, c.OPC_ST, c.OPC_HLT]

/-- Bits 7:6, 5 and 4 of `opcode` are these. The bits are those of the byte itself (30_encoding.md
R65), not what a configuration's field parameters would read. -/
def hasFields (opcode : Byte) (count : Nat) (alu sets : Bool) : Bool :=
  (opcode.extractLsb' 6 2).toNat == count && opcode.getLsbD 5 == alu && opcode.getLsbD 4 == sets

/-- The field parameters read the bits of 30_encoding.md R61, as the source fixes them
(00_scope.md R4). -/
def Config.layoutWf (c : Config) : Bool :=
  c.FAMILY_BIT == 0b00100000 && c.SETS_PC_BIT == 0b00010000 && c.OPERAND_COUNT_SHIFT == 6 &&
  c.OPERAND_COUNT_MASK == 0b11

/-- 30_encoding.md R68: the fields are read where R61 has them, the 22 values are pairwise distinct,
and each satisfies its row of the field table of 30_encoding.md R65. -/
def Config.wf (c : Config) : Bool :=
  c.layoutWf && decide (opcodes c).Nodup &&
  [c.OPC_ADD, c.OPC_ADDI, c.OPC_AND, c.OPC_CMP, c.OPC_MOD, c.OPC_MUL, c.OPC_OR, c.OPC_SHL,
    c.OPC_SHR, c.OPC_XOR].all (fun o => hasFields o 2 true false) &&
  hasFields c.OPC_NOT 1 true false &&
  [c.OPC_LDI, c.OPC_ST].all (fun o => hasFields o 2 false false) &&
  [c.OPC_PRN, c.OPC_PUSH, c.OPC_POP].all (fun o => hasFields o 1 false false) &&
  [c.OPC_CALL, c.OPC_JMP, c.OPC_JEQ, c.OPC_JNE].all (fun o => hasFields o 1 false true) &&
  hasFields c.OPC_RET 0 false true &&
  hasFields c.OPC_HLT 0 false false

/-! ## The host's view of a table word -/

/-- Byte `k` of the instruction whose table word is `w`, the bits above `nbits` being 0. -/
def tableByte (nbits w k : Nat) : Byte :=
  BitVec.ofNat 8 (w % 2 ^ nbits / 256 ^ k)

/-- The three bytes the engine fetches for a table word: the opcode at the lowest address
(20_memory.md R42). -/
def tableBytes (nbits w : Nat) : List Byte :=
  [tableByte nbits w 0, tableByte nbits w 1, tableByte nbits w 2]

/-- The instruction the decoder reads from a table word. -/
def decodeTableWord (nbits w : Nat) : Option Instr :=
  match decode config (tableBytes nbits w) with
  | .ok (i, _) => some i
  | .error _ => none

end Sys2Proof
end

