-- ==== Sys2Proof/Machine/State.lean ====
section
/-! DEFINITION. The whole state of the machine (10_state.md R10), its reset value, and the reasons a step can stop. -/

namespace Sys2Proof.Machine

/-- The run status (10_state.md R25). -/
inductive RunStatus where
  | running
  | halted
  | faulted
  deriving DecidableEq, Repr

/-- The four fault causes (60_exceptions.md R140). They are causes of NEXT states with status
`faulted` (60_exceptions.md R146), not stops of the model. -/
inductive FaultCause where
  /-- Dispatch: the opcode byte is none of the 22 values (R141). -/
  | unrecognizedOpcode
  /-- MOD with a zero divisor (R144). -/
  | divideByZero
  /-- Fetch: one of pc, pc + 1, pc + 2 is above 255 (R142). -/
  | memoryAddressOutOfRange
  /-- Operand check: a register operand byte is above 7 (R143). -/
  | registerIndexOutOfRange
  deriving DecidableEq, Repr

/-- The fault record (10_state.md R26): `cause`, `fault_pc`, and `fault_opcode`, which is none when
nothing was fetched. -/
structure FaultRecord where
  cause : FaultCause
  faultPc : Pc
  faultOpcode : Option Byte
  deriving DecidableEq, Repr

/-- Memory as a list of (address, byte) pairs. An unlisted address reads `config.MEM_FILL`
(10_state.md R36; log 5). -/
abbrev Memory := List Host.Cell

/-- The canonical form: addresses strictly rising and below 256, no entry equal to what an unlisted
address reads as. Two canonical memories that read alike are equal. -/
abbrev Memory.wf (m : Memory) : Prop :=
  m.Pairwise (fun p q => p.1 < q.1) ∧ ∀ p ∈ m, p.1 < config.MEM_SIZE ∧ p.2 ≠ config.MEM_FILL

/-- The complete state of the hardware (10_state.md R10). -/
structure State where
  /-- `x[0]` to `x[7]`; `x[7]` is the stack pointer (R11). -/
  regs : Vector Byte 8
  /-- The address of the next instruction to fetch (R17, R18). -/
  pc : Pc
  /-- The flags byte `FL` (R21). -/
  fl : Byte
  /-- R25. -/
  status : RunStatus
  /-- The fault record; none is the spec's "empty" (R26, R35). -/
  fault : Option FaultRecord
  /-- `Mem[0..255]` (R29). -/
  mem : Memory
  /-- The output trace, oldest value first (R24). -/
  out : List Byte
  deriving DecidableEq, Repr

/-- The reasons a step stops without a next state. There is NONE: the spec gives every step a state
to end in, a faulting one too (60_exceptions.md R146; log 7). Who raises it: nobody. Safe. -/
inductive Fault
  deriving DecidableEq, Repr

/-- The reasons a meaning is refused. -/
inductive Refusal where
  /-- Raised by `exec` alone, for an instruction that has no meaning yet. Every arm has its meaning,
  so nobody raises it now. Safe: nothing can be proved of such a run. -/
  | notModelled (mnemonic : String)
  deriving DecidableEq, Repr

/-- The machine right after reset, before the loader has written an image
(10_state.md R31 to R35, 70_reset_and_hazards.md R170; log 5, log 12). -/
def State.reset : State where
  regs := #v[config.RESET_R0_R6, config.RESET_R0_R6, config.RESET_R0_R6, config.RESET_R0_R6,
    config.RESET_R0_R6, config.RESET_R0_R6, config.RESET_R0_R6, config.SP_RESET]
  pc := config.RESET_PC
  fl := config.RESET_FL
  status := .running
  fault := none
  mem := []
  out := []

end Sys2Proof.Machine
end

