-- ==== Sys2Proof/Machine/Ops.lean ====
section
/-! DEFINITION. The named operations over memory, registers, pc, output and status, taking a fault, and fetching. -/

namespace Sys2Proof.Machine

/-- What a meaning answers. -/
abbrev Result := Host.Outcome State Fault Refusal

/-! ## Memory cells (20_memory.md R40) -/

/-- The byte at an address: the listed one, else `MEM_FILL` (10_state.md R36). -/
def Memory.read (m : Memory) (addr : Nat) : Byte :=
  match m with
  | [] => config.MEM_FILL
  | p :: rest => if p.1 = addr then p.2 else Memory.read rest addr

/-- Put an entry in its place among rising addresses. -/
def Memory.insert (m : Memory) (addr : Nat) (v : Byte) : Memory :=
  match m with
  | [] => [(addr, v)]
  | p :: rest =>
    if addr < p.1 then (addr, v) :: p :: rest
    else if addr = p.1 then (addr, v) :: rest
    else p :: Memory.insert rest addr v

/-- Replace the byte at an address; writing `MEM_FILL` removes the entry, so the form stays
canonical. -/
def Memory.write (m : Memory) (addr : Nat) (v : Byte) : Memory :=
  if v = config.MEM_FILL then m.filter (fun p => p.1 != addr) else m.insert addr v

/-- `MemRead(addr, 1)` of a data address, which is always in range (20_memory.md R41). -/
def State.load (s : State) (addr : Byte) : Byte :=
  s.mem.read addr.toNat

/-- `MemWrite(addr, 1, v)` (20_memory.md R40). -/
def State.store (s : State) (addr v : Byte) : State :=
  { s with mem := s.mem.write addr.toNat v }

/-! ## Registers (10_state.md R11 to R16) -/

/-- `x[r]`. -/
def State.readReg (s : State) (r : RegIdx) : Byte :=
  s.regs[r]

/-- `x[r] <- v`. No register is hardwired or protected (10_state.md R11, R15). -/
def State.writeReg (s : State) (r : RegIdx) (v : Byte) : State :=
  { s with regs := s.regs.set r v }

/-- The register that is the stack pointer, `SP_INDEX` (10_state.md R11). -/
def spIdx : RegIdx := 7

/-- `SP`, an alias of `x[7]`. -/
def State.sp (s : State) : Byte :=
  s.readReg spIdx

/-- `SP <- (SP - 1) mod 256` (10_state.md R16). -/
def State.decSp (s : State) : State :=
  s.writeReg spIdx (BitVec.ofNat 8 ((s.sp.toNat + 255) % 256))

/-- `SP <- (SP + 1) mod 256` (10_state.md R16). -/
def State.incSp (s : State) : State :=
  s.writeReg spIdx (BitVec.ofNat 8 ((s.sp.toNat + 1) % 256))

/-- The push of 42_control.md R132: decrement SP, then write at the new SP the value that is read
from the state AFTER the decrement (42_control.md R134; log 10). -/
def State.push (s : State) (value : State → Byte) : State :=
  s.decSp.store s.decSp.sp (value s.decSp)

/-! ## Flags, pc, output, status -/

/-- `FL <- v`. -/
def State.writeFl (s : State) (v : Byte) : State :=
  { s with fl := v }

/-- `pc <- v`. -/
def State.setPc (s : State) (v : Pc) : State :=
  { s with pc := v }

/-- `pc + 2` as the byte CALL pushes. It is at most 255 wherever an instruction can execute
(42_control.md R124); elsewhere no step gets and its low 8 bits are taken (log 4). -/
def State.returnAddress (s : State) : Byte :=
  (s.pc + 2).setWidth 8

/-- `Emit(v)`: append to the output trace (10_state.md R24). -/
def State.emit (s : State) (v : Byte) : State :=
  { s with out := s.out ++ [v] }

/-- `status <- Halted` (42_control.md R130). -/
def State.halt (s : State) : State :=
  { s with status := .halted }

/-! ## Taking a fault (60_exceptions.md R146)
There is no return from a fault (60_exceptions.md R147): no operation beside these leaves `faulted`,
and reset replaces the whole state. -/

/-- The numeric code of a cause (60_exceptions.md R140, the spec's decision D10; log 9). -/
def FaultCause.code : FaultCause → Nat
  | .unrecognizedOpcode => 1
  | .divideByZero => 2
  | .memoryAddressOutOfRange => 3
  | .registerIndexOutOfRange => 4

/-- Status and fault record are written, nothing else changes (log 7). -/
def State.enterFault (s : State) (cause : FaultCause) (opcode : Option Byte) : State :=
  { s with status := .faulted, fault := some ⟨cause, s.pc, opcode⟩ }

/-- `raise <Cause>(pc, opcode)`: the one way a step takes a fault. -/
def raise (cause : FaultCause) (opcode : Option Byte) (s : State) : Result :=
  .next (s.enterFault cause opcode)

/-! ## The end of an instruction (40_engine.md R86) -/

/-- If the opcode's sets-PC bit is clear, `pc <- pc + 1 + operand_count`; else pc stays as the
instruction left it. -/
def State.advance (s : State) (opcode : Byte) : State :=
  if setsPc config opcode then s
  else s.setPc (s.pc + BitVec.ofNat 9 (1 + operandCount config opcode))

/-- An instruction's writes have been made: advance and answer the next state. -/
def complete (opcode : Byte) (s : State) : Result :=
  .next (s.advance opcode)

/-! ## Fetch (40_engine.md R81) -/

/-- All three fetch addresses pc, pc + 1, pc + 2 are inside memory. -/
def State.canFetch (s : State) : Bool :=
  decide (s.pc.toNat + 2 < config.MEM_SIZE)

/-- The bytes at pc, pc + 1 and pc + 2, read unconditionally; none if one is outside memory. -/
def State.fetch (s : State) : Option (List Byte) :=
  if s.canFetch then
    some [s.mem.read s.pc.toNat, s.mem.read (s.pc.toNat + 1), s.mem.read (s.pc.toNat + 2)]
  else none

/-- What a step does when it cannot fetch: the policy `MEM_OOB_POLICY` (log 2). -/
def fetchOutOfRange (s : State) : Result :=
  match config.MEM_OOB_POLICY with
  | .fault => raise .memoryAddressOutOfRange none s

end Sys2Proof.Machine
end

