-- ==== Sys2Proof/Machine/Operands.lean ====
section
/-! DEFINITION. The operand forms R, RR and RI with their check (30_encoding.md R63, R64; 40_engine.md R84). Form N has no operand. -/

namespace Sys2Proof.Machine

/-- The register an operand byte names: the whole byte is the index, above 7 it names none
(30_encoding.md R64). -/
def regIndex (operand : Byte) : Option RegIdx :=
  if h : operand.toNat < 8 then some ⟨operand.toNat, h⟩ else none

/-- What an operand byte above 7 does: the policy `REG_OOB_POLICY` (60_exceptions.md R143; log 3). -/
def registerOutOfRange (opcode : Byte) (s : State) : Result :=
  match config.REG_OOB_POLICY with
  | .faultAtDecode => raise .registerIndexOutOfRange (some opcode) s

/-- Form R: operand a is a register index. -/
def formR (opcode a : Byte) (s : State) (run : RegIdx → Result) : Result :=
  match regIndex a with
  | none => registerOutOfRange opcode s
  | some ra => run ra

/-- Form RR: operands a and b are register indices; a is checked first. -/
def formRR (opcode a b : Byte) (s : State) (run : RegIdx → RegIdx → Result) : Result :=
  formR opcode a s fun ra => formR opcode b s fun rb => run ra rb

/-- Form RI: operand a is a register index, the immediate is the whole of byte b, never checked. -/
def formRI (opcode a imm : Byte) (s : State) (run : RegIdx → Byte → Result) : Result :=
  formR opcode a s fun ra => run ra imm

end Sys2Proof.Machine
end

