-- ==== Sys2Proof/Machine/Alu.lean ====
section
/-! DEFINITION. The meanings of the 11 ALU-family instructions (41_alu.md). Sources are read before the destination is written (R113). -/

namespace Sys2Proof.Machine

/-- ADD: 41_alu.md R101. -/
def execAdd (a b : Byte) (s : State) : Result :=
  formRR config.OPC_ADD a b s fun ra rb =>
    complete config.OPC_ADD (s.writeReg ra (addBytes (s.readReg ra) (s.readReg rb)))

/-- ADDI: 41_alu.md R102. -/
def execAddi (a imm : Byte) (s : State) : Result :=
  formRI config.OPC_ADDI a imm s fun ra v =>
    complete config.OPC_ADDI (s.writeReg ra (addBytes (s.readReg ra) v))

/-- AND: 41_alu.md R103. -/
def execAnd (a b : Byte) (s : State) : Result :=
  formRR config.OPC_AND a b s fun ra rb =>
    complete config.OPC_AND (s.writeReg ra (andBytes (s.readReg ra) (s.readReg rb)))

/-- CMP: 41_alu.md R104. The only writer of FL. -/
def execCmp (a b : Byte) (s : State) : Result :=
  formRR config.OPC_CMP a b s fun ra rb =>
    complete config.OPC_CMP (s.writeFl (compareFlags (s.readReg ra) (s.readReg rb)))

/-- MOD: 41_alu.md R105. A zero divisor raises DivideByZero and nothing is written. -/
def execMod (a b : Byte) (s : State) : Result :=
  formRR config.OPC_MOD a b s fun ra rb =>
    if s.readReg rb = 0 then raise .divideByZero (some config.OPC_MOD) s
    else complete config.OPC_MOD (s.writeReg ra (modBytes (s.readReg ra) (s.readReg rb)))

/-- MUL: 41_alu.md R106. -/
def execMul (a b : Byte) (s : State) : Result :=
  formRR config.OPC_MUL a b s fun ra rb =>
    complete config.OPC_MUL (s.writeReg ra (mulBytes (s.readReg ra) (s.readReg rb)))

/-- NOT: 41_alu.md R107, one operand (90_conflicts.md C4). -/
def execNot (a : Byte) (s : State) : Result :=
  formR config.OPC_NOT a s fun ra =>
    complete config.OPC_NOT (s.writeReg ra (notByte (s.readReg ra)))

/-- OR: 41_alu.md R108. -/
def execOr (a b : Byte) (s : State) : Result :=
  formRR config.OPC_OR a b s fun ra rb =>
    complete config.OPC_OR (s.writeReg ra (orBytes (s.readReg ra) (s.readReg rb)))

/-- SHL: 41_alu.md R109. -/
def execShl (a b : Byte) (s : State) : Result :=
  formRR config.OPC_SHL a b s fun ra rb =>
    complete config.OPC_SHL (s.writeReg ra (shlBytes (s.readReg ra) (s.readReg rb)))

/-- SHR: 41_alu.md R110. -/
def execShr (a b : Byte) (s : State) : Result :=
  formRR config.OPC_SHR a b s fun ra rb =>
    complete config.OPC_SHR (s.writeReg ra (shrBytes (s.readReg ra) (s.readReg rb)))

/-- XOR: 41_alu.md R111. -/
def execXor (a b : Byte) (s : State) : Result :=
  formRR config.OPC_XOR a b s fun ra rb =>
    complete config.OPC_XOR (s.writeReg ra (xorBytes (s.readReg ra) (s.readReg rb)))

end Sys2Proof.Machine
end

