-- ==== Sys2Proof/Machine/Control.lean ====
section
/-! DEFINITION. The meanings of the 11 control-family instructions (42_control.md). Sub-steps run in the order of the row, each seeing the one before. -/

namespace Sys2Proof.Machine

/-- LDI: 42_control.md R120. -/
def execLdi (a imm : Byte) (s : State) : Result :=
  formRI config.OPC_LDI a imm s fun ra v =>
    complete config.OPC_LDI (s.writeReg ra v)

/-- PRN: 42_control.md R121. -/
def execPrn (a : Byte) (s : State) : Result :=
  formR config.OPC_PRN a s fun ra =>
    complete config.OPC_PRN (s.emit (s.readReg ra))

/-- PUSH: 42_control.md R122; `x[a]` is read after the decrement (R134; log 10). -/
def execPush (a : Byte) (s : State) : Result :=
  formR config.OPC_PUSH a s fun ra =>
    complete config.OPC_PUSH (s.push fun u => u.readReg ra)

/-- POP: 42_control.md R123; SP is incremented after `x[a]` is written (R134; log 10). -/
def execPop (a : Byte) (s : State) : Result :=
  formR config.OPC_POP a s fun ra =>
    complete config.OPC_POP (s.writeReg ra (s.load s.sp)).incSp

/-- CALL: 42_control.md R124; the target is read after the push (R134; log 10), and no register but
SP is written (90_conflicts.md C3). -/
def execCall (a : Byte) (s : State) : Result :=
  formR config.OPC_CALL a s fun ra =>
    let pushed := s.push fun u => u.returnAddress
    complete config.OPC_CALL (pushed.setPc (zext9 (pushed.readReg ra)))

/-- RET: 42_control.md R125. -/
def execRet (s : State) : Result :=
  complete config.OPC_RET (s.incSp.setPc (zext9 (s.load s.sp)))

/-- JMP: 42_control.md R126. -/
def execJmp (a : Byte) (s : State) : Result :=
  formR config.OPC_JMP a s fun ra =>
    complete config.OPC_JMP (s.setPc (zext9 (s.readReg ra)))

/-- JEQ: 42_control.md R127; it writes pc on both paths (90_conflicts.md C5, C8). -/
def execJeq (a : Byte) (s : State) : Result :=
  formR config.OPC_JEQ a s fun ra =>
    complete config.OPC_JEQ (s.setPc (if flagE s.fl then zext9 (s.readReg ra) else s.pc + 2))

/-- JNE: 42_control.md R128; it writes pc on both paths. -/
def execJne (a : Byte) (s : State) : Result :=
  formR config.OPC_JNE a s fun ra =>
    complete config.OPC_JNE (s.setPc (if flagE s.fl then s.pc + 2 else zext9 (s.readReg ra)))

/-- ST: 42_control.md R129. -/
def execSt (a b : Byte) (s : State) : Result :=
  formRR config.OPC_ST a b s fun ra rb =>
    complete config.OPC_ST (s.store (s.readReg ra) (s.readReg rb))

/-- HLT: 42_control.md R130; the engine still advances pc by 1. -/
def execHlt (s : State) : Result :=
  complete config.OPC_HLT s.halt

end Sys2Proof.Machine
end

