-- ==== Sys2Proof/Machine/Dispatch.lean ====
section
/-! DEFINITION. One arm per instruction: parts 4 to 6 of the step (40_engine.md R84 to R86) of the instruction decoded. -/

namespace Sys2Proof.Machine

def exec (i : Instr) (s : State) : Host.Outcome State Fault Refusal :=
  match i with
  | .add a b => Sys2Proof.Machine.execAdd a b s
  | .addi a imm => Sys2Proof.Machine.execAddi a imm s
  | .and a b => Sys2Proof.Machine.execAnd a b s
  | .cmp a b => Sys2Proof.Machine.execCmp a b s
  | .mod a b => Sys2Proof.Machine.execMod a b s
  | .mul a b => Sys2Proof.Machine.execMul a b s
  | .not a => Sys2Proof.Machine.execNot a s
  | .or a b => Sys2Proof.Machine.execOr a b s
  | .shl a b => Sys2Proof.Machine.execShl a b s
  | .shr a b => Sys2Proof.Machine.execShr a b s
  | .xor a b => Sys2Proof.Machine.execXor a b s
  | .ldi a imm => Sys2Proof.Machine.execLdi a imm s
  | .prn a => Sys2Proof.Machine.execPrn a s
  | .push a => Sys2Proof.Machine.execPush a s
  | .pop a => Sys2Proof.Machine.execPop a s
  | .call a => Sys2Proof.Machine.execCall a s
  | .ret => Sys2Proof.Machine.execRet s
  | .jmp a => Sys2Proof.Machine.execJmp a s
  | .jeq a => Sys2Proof.Machine.execJeq a s
  | .jne a => Sys2Proof.Machine.execJne a s
  | .st a b => Sys2Proof.Machine.execSt a b s
  | .hlt => Sys2Proof.Machine.execHlt s

end Sys2Proof.Machine
end

