-- ==== Sys2Proof/Machine/Engine.lean ====
section
/-! DEFINITION. One pass of the fetch-decode-execute cycle (40_engine.md R80 to R87), which Step.lean calls. -/

namespace Sys2Proof.Machine

/-- Parts 2 to 6 of the step on the three fetched bytes: classify and dispatch (R82, R83), then the
instruction's own check, effect and advance (R84 to R86). Of the decoder's rejections only
`unrecognizedOpcode` can arise, three bytes being enough for every instruction. -/
def executeBytes (bytes : List Byte) (s : State) : Result :=
  match decode config bytes with
  | .ok (i, _) => exec i s
  | .error (.unrecognizedOpcode opcode) => raise .unrecognizedOpcode (some opcode) s
  | .error .endOfBytes => fetchOutOfRange s

/-- A running engine fetches and executes (R81); a halted or faulted one does nothing (R80). -/
def cycle (s : State) : Result :=
  match s.status with
  | .running =>
    match s.fetch with
    | none => fetchOutOfRange s
    | some bytes => executeBytes bytes s
  | .halted => .next s
  | .faulted => .next s

end Sys2Proof.Machine
end

