-- ==== Sys2Proof/Machine/Launch.lean ====
section
/-! DEFINITION. The interfaces of the block (10_state.md R37): loading an image before the first step, and the text of the output trace. -/

namespace Sys2Proof.Machine

/-! ## The load path (70_reset_and_hazards.md R172) -/

/-- Byte i of the list to address `addr + i`. -/
def Memory.writeBytes (m : Memory) (addr : Nat) (bytes : List Byte) : Memory :=
  match bytes with
  | [] => m
  | v :: rest => Memory.writeBytes (m.write addr v) (addr + 1) rest

/-- The launch state: reset, then the image written sequentially from address 0 (10_state.md R36).
None for an image of more than 256 bytes, which the launch precondition excludes (D15; log 14). -/
def State.boot (image : List Byte) : Option State :=
  if image.length ≤ config.MEM_SIZE then
    some { State.reset with mem := State.reset.mem.writeBytes 0 image }
  else none

/-- A running machine whose fetch can succeed: `s` itself where it already is one (log 12). -/
def State.readyToFetch (s : State) : State :=
  { s with
    status := .running
    fault := if s.status = .running then s.fault else none
    pc := if s.canFetch then s.pc else config.RESET_PC }

/-- The bytes stored from pc upward. -/
def State.placeAtPc (s : State) (bytes : List Byte) : State :=
  { s with mem := s.mem.writeBytes s.pc.toNat bytes }

/-! ## The output collaborator's text (10_state.md R24, the spec's decision D12; log 11) -/

/-- The line shown for one emitted value: its decimal numeral, no sign and no leading zeros, then a
line feed. -/
def renderValue (v : Byte) : List Char :=
  Nat.toDigits 10 v.toNat ++ ['\n']

/-- The text shown for an output trace. -/
def renderTrace (out : List Byte) : List Char :=
  out.flatMap renderValue

/-! ## The program image text (30_encoding.md R73; outside the block, log 18) -/

/-- The value of a character that is a binary digit. -/
def binaryDigit (ch : Char) : Option Nat :=
  if ch = '0' then some 0 else if ch = '1' then some 1 else none

/-- The base-2 value of a run of binary digits, the leftmost the most significant. -/
def binaryValue (acc : Nat) (digits : List Char) : Option Nat :=
  match digits with
  | [] => some acc
  | ch :: rest =>
    match binaryDigit ch with
    | none => none
    | some d => binaryValue (2 * acc + d) rest

/-- A line without its `#` comment and without blanks around what is left. -/
def lineContent (line : List Char) : List Char :=
  let body := line.takeWhile (fun ch => ch != '#')
  ((body.dropWhile Char.isWhitespace).reverse.dropWhile Char.isWhitespace).reverse

/-- One line of image text: no byte for a blank or comment-only line, one byte for an 8-character
binary literal, none (malformed) for anything else. -/
def parseLine (line : List Char) : Option (List Byte) :=
  let body := lineContent line
  if body.isEmpty then some []
  else if body.length = 8 then (binaryValue 0 body).map fun n => [BitVec.ofNat 8 n]
  else none

/-- The image of a whole text, line by line; none if a line is malformed. -/
def parseImage (lines : List (List Char)) : Option (List Byte) :=
  match lines with
  | [] => some []
  | line :: rest =>
    match parseLine line, parseImage rest with
    | some bytes, some more => some (bytes ++ more)
    | _, _ => none

end Sys2Proof.Machine
end

