-- ==== Sys2Proof/Machine/Step.lean ====
section
/-! DEFINITION. The step of the machine and the placing of one instruction where it fetches. -/

namespace Sys2Proof.Machine

/-- One step (40_engine.md R80, section 3 of that file): one instruction executed, one fault taken,
or, when the machine is not running, nothing. -/
def step (s : State) : Host.Outcome State Fault Refusal :=
  cycle s

/-- `s` with the instruction of a table word stored where `step` fetches next. Status and pc change
only where `step` could not fetch at all (log 12). -/
def State.withFetchWord (s : State) (nbits w : Nat) : State :=
  s.readyToFetch.placeAtPc (tableBytes nbits w)

end Sys2Proof.Machine
end

