-- ==== Sys2Proof/Safety.lean ====
section
/-! DEFINITION. What claims are stated in: runs, how a run ends, and the invariant that every step keeps. -/

namespace Sys2Proof.Machine

/-- The state after `n` steps. Every step answers a next state, so only the first arm is ever taken;
the others keep the state. -/
def run : Nat → State → State
  | 0, s => s
  | n + 1, s =>
    match step s with
    | .next t => run n t
    | .fault _ => s
    | .refused _ => s

/-- A run has ended: the status is not Running (40_engine.md R89). -/
abbrev State.Ended (s : State) : Prop := s.status ≠ .running

/-- A run ended cleanly: by HLT (40_engine.md R89). -/
abbrev State.EndedCleanly (s : State) : Prop := s.status = .halted

/-- A safe run: no fault was taken (60_exceptions.md R146: a faulted state is never the final state
of a successful run). -/
abbrev State.Safe (s : State) : Prop := s.status ≠ .faulted

/-- FL holds one of the four values of 10_state.md R23. -/
abbrev FlLegal (fl : Byte) : Prop := fl = 0x00 ∨ fl = 0x01 ∨ fl = 0x02 ∨ fl = 0x04

/-- What a fault record says of the state it was taken in (10_state.md R26, 60_exceptions.md R140):
the pc is the faulting one and still the pc, and the recorded opcode fits the cause. -/
abbrev FaultRecord.Fits (f : FaultRecord) (pc : Pc) : Prop :=
  f.faultPc = pc ∧
  match f.cause with
  | .memoryAddressOutOfRange => 255 < pc.toNat + 2 ∧ f.faultOpcode = none
  | .unrecognizedOpcode => ∃ o, f.faultOpcode = some o ∧ o ∉ opcodes config
  | .divideByZero => f.faultOpcode = some config.OPC_MOD
  | .registerIndexOutOfRange =>
      ∃ o, f.faultOpcode = some o ∧ o ∈ opcodes config ∧ o ≠ config.OPC_RET ∧ o ≠ config.OPC_HLT

/-- The states a run can be in: pc at most 256 (10_state.md R18), FL legal (R23), memory in its
canonical form, and a fault record exactly when faulted, which fits (R26). -/
structure State.Inv (s : State) : Prop where
  pc_le : s.pc.toNat ≤ 256
  fl_legal : FlLegal s.fl
  mem_wf : s.mem.wf
  record_iff : s.status = .faulted ↔ s.fault.isSome
  record_fits : ∀ f, s.fault = some f → f.Fits s.pc

end Sys2Proof.Machine
end

