-- ==== Sys2Proof/Certificates/Slice0/Obligations.lean ====
section
/-! DEFINITION. The statements of this model, from the numbered rules of spec/. Each docstring says which rule it formalises. -/

open Sys2Proof Sys2Proof.Machine

/-! ## Words the statements use -/

namespace Sys2Proof.Certificates

/-- The opcode byte a step fetches (00_scope.md R6). -/
abbrev opcodeAt (s : State) : Byte := s.mem.read s.pc.toNat

/-- Operand byte a (00_scope.md R6). -/
abbrev operandA (s : State) : Byte := s.mem.read (s.pc.toNat + 1)

/-- Operand byte b (00_scope.md R6). -/
abbrev operandB (s : State) : Byte := s.mem.read (s.pc.toNat + 2)

/-- The opcodes whose form has register operand a: every recognized one but RET and HLT
(30_encoding.md R63, 60_exceptions.md R143). -/
abbrev UsesRegisterA (opcode : Byte) : Prop :=
  opcode ∈ opcodes config ∧ opcode ≠ config.OPC_RET ∧ opcode ≠ config.OPC_HLT

/-- The opcodes of form RR, whose operand b is a register index (30_encoding.md R63). -/
abbrev UsesRegisterB (opcode : Byte) : Prop :=
  opcode ∈ [config.OPC_ADD, config.OPC_AND, config.OPC_CMP, config.OPC_MOD, config.OPC_MUL,
    config.OPC_OR, config.OPC_SHL, config.OPC_SHR, config.OPC_XOR, config.OPC_ST]

/-- The divisor register of a MOD at pc is a register and holds 0. -/
abbrev DivisorIsZero (s : State) : Prop :=
  ∃ rb : RegIdx, (operandB s).toNat = rb.val ∧ s.readReg rb = 0

/-- The first fault condition that holds of a running state, in the order of 60_exceptions.md R145. -/
def firstFault (s : State) : Option FaultCause :=
  if 255 < s.pc.toNat + 2 then some .memoryAddressOutOfRange
  else if opcodeAt s ∉ opcodes config then some .unrecognizedOpcode
  else if UsesRegisterA (opcodeAt s) ∧ 7 < (operandA s).toNat then some .registerIndexOutOfRange
  else if UsesRegisterB (opcodeAt s) ∧ 7 < (operandB s).toNat then some .registerIndexOutOfRange
  else if opcodeAt s = config.OPC_MOD ∧ DivisorIsZero s then some .divideByZero
  else none

/-- The ALU family of 41_alu.md (the source's first instruction table). -/
def aluFamily : Instr → Bool
  | .add _ _ => true
  | .addi _ _ => true
  | .and _ _ => true
  | .cmp _ _ => true
  | .mod _ _ => true
  | .mul _ _ => true
  | .not _ => true
  | .or _ _ => true
  | .shl _ _ => true
  | .shr _ _ => true
  | .xor _ _ => true
  | .ldi _ _ => false
  | .prn _ => false
  | .push _ => false
  | .pop _ => false
  | .call _ => false
  | .ret => false
  | .jmp _ => false
  | .jeq _ => false
  | .jne _ => false
  | .st _ _ => false
  | .hlt => false

/-- The instructions that write pc in their semantics (30_encoding.md R65). -/
def writesPc : Instr → Bool
  | .add _ _ => false
  | .addi _ _ => false
  | .and _ _ => false
  | .cmp _ _ => false
  | .mod _ _ => false
  | .mul _ _ => false
  | .not _ => false
  | .or _ _ => false
  | .shl _ _ => false
  | .shr _ _ => false
  | .xor _ _ => false
  | .ldi _ _ => false
  | .prn _ => false
  | .push _ => false
  | .pop _ => false
  | .call _ => true
  | .ret => true
  | .jmp _ => true
  | .jeq _ => true
  | .jne _ => true
  | .st _ _ => false
  | .hlt => false

end Sys2Proof.Certificates

open Sys2Proof.Certificates


/-! ## Reset and launch (10_state.md section 7, 70_reset_and_hazards.md) -/

/-- After reset SP is 0xF4 and the first PUSH or CALL writes address 0xF3. 10_state.md R31, whole.
-/
def Obligations.ResetStackPointer : Prop :=
  State.reset.readReg 7 = 0xF4 ∧
  ∀ (a : Byte) (ra : RegIdx), a.toNat = ra.val →
    (∃ t, exec (.push a) State.reset = .next t ∧ t.sp = 0xF3 ∧ t.load 0xF3 = t.readReg ra ∧
      ∀ x, x ≠ 0xF3 → t.load x = State.reset.load x) ∧
    (∃ t, exec (.call a) State.reset = .next t ∧ t.sp = 0xF3 ∧
      t.load 0xF3 = BitVec.ofNat 8 (State.reset.pc.toNat + 2) ∧
      ∀ x, x ≠ 0xF3 → t.load x = State.reset.load x)

/-- The reset values the spec decides: R0 to R6, FL and unloaded memory 0, pc 0, Running, record
and trace empty. 10_state.md R32 to R35 and the reset table. The zeros are the spec's decision D6
(log 5), no rule of the source. -/
def Obligations.ResetDecidedValues : Prop :=
  (∀ q : RegIdx, q ≠ 7 → State.reset.readReg q = config.RESET_R0_R6) ∧
  config.RESET_R0_R6 = 0 ∧ State.reset.fl = config.RESET_FL ∧ config.RESET_FL = 0 ∧
  State.reset.pc = config.RESET_PC ∧ config.RESET_PC = 0 ∧ State.reset.status = .running ∧
  State.reset.fault = none ∧ State.reset.out = [] ∧
  (∀ x, State.reset.load x = config.MEM_FILL) ∧ config.MEM_FILL = 0

/-- A launch writes byte i of the image to cell i, fills the rest with 0 and is reset otherwise.
10_state.md R36, 70_reset_and_hazards.md R172. The fill 0 is decision D6 (log 5), the length limit
D15 (log 14). -/
def Obligations.BootLoadsImage : Prop :=
  ∀ image : List Byte,
    (image.length ≤ 256 → ∃ t, State.boot image = some t ∧
      (∀ i, i < image.length → t.mem.read i = image.getD i 0) ∧
      (∀ i, image.length ≤ i → i ≤ 255 → t.mem.read i = 0) ∧
      t = { State.reset with mem := t.mem }) ∧
    (256 < image.length → State.boot image = none)

/-- The reset state meets the invariant. The base case of `StepKeepsInvariant`. -/
def Obligations.ResetMeetsInvariant : Prop :=
  State.reset.Inv

/-- Every launch state meets the invariant. The base case of `StepKeepsInvariant` for a loaded
machine. -/
def Obligations.BootMeetsInvariant : Prop :=
  ∀ (image : List Byte) (t : State), State.boot image = some t → t.Inv


/-! ## Encoding (30_encoding.md) -/

/-- Operand count is bits 7:6, family bit 5, sets-PC bit 4, and bit 5 selects the dispatch table.
40_engine.md R82, whole. -/
def Obligations.OpcodeBitsClassify : Prop :=
  ∀ opcode : Byte,
    operandCount config opcode = (opcode.extractLsb' 6 2).toNat ∧
    isAlu config opcode = opcode.getLsbD 5 ∧
    setsPc config opcode = opcode.getLsbD 4 ∧
    (opcode.getLsbD 5 = true → dispatch config opcode = lookup (aluTable config) opcode) ∧
    (opcode.getLsbD 5 = false → dispatch config opcode = lookup (controlTable config) opcode)

/-- A configuration is legal exactly when its field parameters read bits 7:6, 5 and 4, its opcodes
are distinct and each opcode's bits are those of the field table; the engine then decodes those
fields. 30_encoding.md R65, as the condition R68 asks of a configuration. -/
def Obligations.OpcodeFieldsMatchForm : Prop :=
  config.wf = true ∧
  (∀ c : Config, c.wf = true ↔
    (c.FAMILY_BIT = 0b00100000 ∧ c.SETS_PC_BIT = 0b00010000 ∧ c.OPERAND_COUNT_SHIFT = 6 ∧
      c.OPERAND_COUNT_MASK = 0b11) ∧
    (opcodes c).Nodup ∧
    ∀ i : Instr, ((i.opcode c).extractLsb' 6 2).toNat = i.operandBytes.length ∧
      (i.opcode c).getLsbD 5 = aluFamily i ∧ (i.opcode c).getLsbD 4 = writesPc i) ∧
  (∀ (c : Config) (i : Instr), c.wf = true →
    operandCount c (i.opcode c) = i.operandBytes.length ∧
    isAlu c (i.opcode c) = aluFamily i ∧
    setsPc c (i.opcode c) = writesPc i)

/-- Words written out from the encoding tables decode to their instructions. 30_encoding.md
sections 2 and 4 under the default parameter values (log 1). -/
def Obligations.SampleWordsDecode : Prop :=
  decode config [0b10100000, 0b00000001, 0b00000010] = .ok (.add 1 2, []) ∧
  decode config [0b01101001, 0b00000011] = .ok (.not 3, []) ∧
  decode config [0b10000010, 0b00000000, 0b00001000] = .ok (.ldi 0 8, []) ∧
  decode config [0b01000101, 0b00000101] = .ok (.push 5, []) ∧
  decode config [0b00010001] = .ok (.ret, []) ∧
  decode config [0b01010110, 0b00000010] = .ok (.jne 2, []) ∧
  decode config [0b10000100, 0b00000000, 0b00000001] = .ok (.st 0 1, []) ∧
  decode config [0b00000001] = .ok (.hlt, []) ∧
  decode config [0b00000000] = .error (.unrecognizedOpcode 0)

/-- Decoding the encoding of any instruction gives it back, in every legal configuration.
30_encoding.md R60, R62, R64, R67, R68: no bit of an encoding is dropped, and the length comes
from the opcode. -/
def Obligations.DecodeOfEncodeIsIdentity : Prop :=
  ∀ (c : Config) (i : Instr) (rest : List Byte), c.wf = true →
    decode c (encode c i ++ rest) = .ok (i, rest)

/-- Whatever decodes re-encodes to the bytes it was read from. 30_encoding.md R67, R71: a
recognized word has no ignored bits. -/
def Obligations.EncodeOfDecodeIsIdentity : Prop :=
  ∀ (c : Config) (bytes : List Byte) (i : Instr) (rest : List Byte), c.wf = true →
    decode c bytes = .ok (i, rest) → encode c i ++ rest = bytes

/-- The two-stage dispatch equals one lookup among all 22 values. 30_encoding.md R67, its sentence
marked [derived]. -/
def Obligations.TwoStageLookupIsOneLookup : Prop :=
  ∀ (c : Config) (opcode : Byte), c.wf = true →
    dispatch c opcode = lookup (aluTable c ++ controlTable c) opcode

/-- Every byte that is none of the 22 opcodes raises UnrecognizedOpcode when fetched as an opcode.
60_exceptions.md R141. That the stop is a state with status Faulted is decision D8 (log 7). -/
def Obligations.UnrecognizedOpcodeStops : Prop :=
  ((List.range 256).filter (fun n => decide (BitVec.ofNat 8 n ∉ opcodes config))).length = 234 ∧
  (∀ o ∈ [0x00#8, 0x83#8, 0x52#8, 0x13#8, 0x57#8, 0x58#8, 0x59#8, 0x5A#8], o ∉ opcodes config) ∧
  ∀ s : State, s.status = .running → s.pc.toNat ≤ 253 → opcodeAt s ∉ opcodes config →
    step s = .next (s.enterFault .unrecognizedOpcode (some (opcodeAt s)))


/-! ## The engine (40_engine.md) -/

/-- A step of a running machine executes the instruction its three fetched bytes decode to.
40_engine.md R81, R83 to R86: nothing stands between the decoded instruction and `exec`. -/
def Obligations.StepRunsDecodedInstruction : Prop :=
  ∀ (s : State) (i : Instr) (rest : List Byte), s.status = .running → s.pc.toNat ≤ 253 →
    decode config [opcodeAt s, operandA s, operandB s] = .ok (i, rest) →
    step s = exec i s

/-- A running step with pc + 2 above 255 raises MemoryAddressOutOfRange and changes nothing else.
40_engine.md R81, 60_exceptions.md R142; the policy is decision D3 (log 2), and pc 257 to 511,
which no run reaches, is the model's literal reading of `pc + 2 > 255` (DEDUCED, log 4). -/
def Obligations.FetchOutsideMemoryFaults : Prop :=
  ∀ s : State, s.status = .running → 253 < s.pc.toNat →
    step s = .next (s.enterFault .memoryAddressOutOfRange none)

/-- A halted or faulted machine does nothing, for any number of steps. 40_engine.md R80,
10_state.md R25, 60_exceptions.md R147. -/
def Obligations.StoppedMachineStaysStopped : Prop :=
  ∀ (n : Nat) (s : State), s.status ≠ .running →
    Host.Core.run Sys2Proof.core n s = .next s ∧ run n s = s

/-- Every step of every state answers a next state. 70_reset_and_hazards.md R176: while Running a
step is always enabled. -/
def Obligations.EveryStepAnswersNext : Prop :=
  ∀ s : State, ∃ t, step s = .next t

/-- A running step takes exactly the first fault whose condition holds, and with none it ends
unfaulted. 60_exceptions.md R140, R145, R146 and 40_engine.md R87. The order of the last two
causes is decision D9 (log 8), the state after a fault D8 (log 7), the two range policies D3 and
D4 (log 2, log 3). That pc 257 to 511, which no run reaches, faults too is the model's literal
reading of `pc + 2 > 255` (DEDUCED, log 4). -/
def Obligations.FirstFaultIsTaken : Prop :=
  ∀ s : State, s.status = .running →
    (∀ c, firstFault s = some c →
      step s = .next (s.enterFault c
        (if c = .memoryAddressOutOfRange then none else some (opcodeAt s)))) ∧
    (firstFault s = none → ∃ t, step s = .next t ∧ t.status ≠ .faulted)

/-- Every instruction with a register operand above 7 raises RegisterIndexOutOfRange and does
nothing else. 40_engine.md R84, 60_exceptions.md R143; the policy is decision D4 (log 3). -/
def Obligations.IllegalRegisterOperandFaults : Prop :=
  ∀ (i : Instr) (s : State), (∃ r ∈ i.registerOperands, 7 < r.toNat) →
    exec i s = .next (s.enterFault .registerIndexOutOfRange (some (i.opcode config)))

/-- After an unfaulted instruction whose sets-PC bit is clear, pc has grown by 1 + operand_count,
unreduced. 40_engine.md R86, whole. -/
def Obligations.AdvanceFollowsOpcodeBits : Prop :=
  (∀ (i : Instr) (s t : State), s.pc.toNat ≤ 253 → exec i s = .next t → t.status ≠ .faulted →
    setsPc config (i.opcode config) = false →
    t.pc.toNat = s.pc.toNat + 1 + operandCount config (i.opcode config)) ∧
  (∀ (opcode : Byte) (u : State), setsPc config opcode = true → u.advance opcode = u)

/-- A running step ends Halted exactly when the opcode executed is HLT, and nothing follows.
40_engine.md R88. -/
def Obligations.OnlyHltHalts : Prop :=
  ∀ s t : State, s.status = .running → step s = .next t →
    (t.status = .halted ↔ s.pc.toNat ≤ 253 ∧ opcodeAt s = config.OPC_HLT) ∧
    (t.status = .halted → step t = .next t) ∧
    (t.status ≠ .running → t.status = .halted ∨ ∃ c o, t = s.enterFault c o)

/-- Only CMP writes FL, only JEQ and JNE read it, and they read only bit E. 10_state.md R22,
whole; the second part compares two runs that differ only in FL. -/
def Obligations.FlagsLifecycle : Prop :=
  (∀ (i : Instr) (s t : State), exec i s = .next t →
    t.fl = s.fl ∨ (∃ a b, i = .cmp a b) ∧ (t.fl = 0b001 ∨ t.fl = 0b010 ∨ t.fl = 0b100)) ∧
  (∀ (a b : Byte) (s t : State), exec (.cmp a b) s = .next t → s.status = .running →
    t.status = .running → t.fl = 0b001 ∨ t.fl = 0b010 ∨ t.fl = 0b100) ∧
  (∀ (i : Instr) (s t : State) (fl : Byte), exec i s = .next t →
    ((∃ a, i = .jeq a ∨ i = .jne a) → fl.getLsbD 0 = s.fl.getLsbD 0) →
    ∃ u, exec i (s.writeFl fl) = .next u ∧ u = t.writeFl u.fl)

/-- A step changes memory only by ST at x[a] or by PUSH or CALL at the decremented SP.
20_memory.md R45, 42_control.md R131, R135, 41_alu.md R100 (the ALU family never touches memory).
-/
def Obligations.MemoryChangesOnlyAtTheStore : Prop :=
  ∀ (s t : State) (x : Byte), step s = .next t → t.load x ≠ s.load x →
    s.status = .running ∧
    ((opcodeAt s = config.OPC_ST ∧
        ∃ ra : RegIdx, (operandA s).toNat = ra.val ∧ x = s.readReg ra) ∨
      ((opcodeAt s = config.OPC_PUSH ∨ opcodeAt s = config.OPC_CALL) ∧ x = s.readReg 7 - 1))

/-- A step leaves the output trace alone, or is a PRN that appends the register it names.
10_state.md R24, 42_control.md R121, R131. -/
def Obligations.OutputGrowsOnlyByPrn : Prop :=
  ∀ s t : State, step s = .next t → t.out = s.out ∨
    (s.status = .running ∧ opcodeAt s = config.OPC_PRN ∧
      ∃ ra : RegIdx, (operandA s).toNat = ra.val ∧ t.out = s.out ++ [s.readReg ra])

/-- Every step keeps the invariant. 10_state.md R18, R23, R25, R26, R29 and 60_exceptions.md R140.
R23 is marked [derived] and the pc range is decision D5 (log 4). -/
def Obligations.StepKeepsInvariant : Prop :=
  ∀ s t : State, s.Inv → step s = .next t → t.Inv


/-! ## ALU family (41_alu.md). In every statement of an instruction's meaning: the first two clauses are its encoding (the value is the default of the parameter, decisions D1 and D2, log 1); the completed state is written out whole, so everything not named in it is unchanged; the last clause is RegisterIndexOutOfRange (decision D4, log 3), in whose state nothing else changes. The corner cases and the example of the rule are values of these equations -/

/-- ADD: encoding, result, everything else unchanged, and its register-index fault. 41_alu.md
R101, whole. -/
def Obligations.AddMeaning : Prop :=
  ∀ (a b : Byte) (s : State),
    config.OPC_ADD = 0b10100000 ∧
    (∀ rest, decode config (config.OPC_ADD :: a :: b :: rest) = .ok (.add a b, rest)) ∧
    (∀ ra rb : RegIdx, a.toNat = ra.val → b.toNat = rb.val →
      exec (.add a b) s = .next ((s.writeReg ra (BitVec.ofNat 8 (((s.readReg ra).toNat + (s.readReg rb).toNat) % 256))).setPc (s.pc + 3))) ∧
    (7 < a.toNat ∨ 7 < b.toNat →
      exec (.add a b) s = .next (s.enterFault .registerIndexOutOfRange (some config.OPC_ADD)))

/-- ADDI: encoding, result, everything else unchanged, and its register-index fault. 41_alu.md
R102; the opcode value is the spec's own choice D2 (log 1). -/
def Obligations.AddiMeaning : Prop :=
  ∀ (a imm : Byte) (s : State),
    config.OPC_ADDI = 0b10101110 ∧
    (∀ rest, decode config (config.OPC_ADDI :: a :: imm :: rest) = .ok (.addi a imm, rest)) ∧
    (∀ ra : RegIdx, a.toNat = ra.val →
      exec (.addi a imm) s =
        .next ((s.writeReg ra (BitVec.ofNat 8 (((s.readReg ra).toNat + imm.toNat) % 256))).setPc (s.pc + 3))) ∧
    (7 < a.toNat →
      exec (.addi a imm) s = .next (s.enterFault .registerIndexOutOfRange (some config.OPC_ADDI)))

/-- AND: encoding, result, everything else unchanged, and its register-index fault. 41_alu.md
R103, whole. -/
def Obligations.AndMeaning : Prop :=
  ∀ (a b : Byte) (s : State),
    config.OPC_AND = 0b10101000 ∧
    (∀ rest, decode config (config.OPC_AND :: a :: b :: rest) = .ok (.and a b, rest)) ∧
    (∀ ra rb : RegIdx, a.toNat = ra.val → b.toNat = rb.val →
      exec (.and a b) s = .next ((s.writeReg ra (s.readReg ra &&& s.readReg rb)).setPc (s.pc + 3))) ∧
    (7 < a.toNat ∨ 7 < b.toNat →
      exec (.and a b) s = .next (s.enterFault .registerIndexOutOfRange (some config.OPC_AND)))

/-- CMP: encoding, the whole of FL from an unsigned comparison, everything else unchanged,
register-index fault. 41_alu.md R104, whole. -/
def Obligations.CmpMeaning : Prop :=
  ∀ (a b : Byte) (s : State),
    config.OPC_CMP = 0b10100111 ∧
    (∀ rest, decode config (config.OPC_CMP :: a :: b :: rest) = .ok (.cmp a b, rest)) ∧
    (∀ ra rb : RegIdx, a.toNat = ra.val → b.toNat = rb.val →
      exec (.cmp a b) s =
        .next ((s.writeFl (if s.readReg ra = s.readReg rb then 0b00000001
          else if (s.readReg ra).toNat > (s.readReg rb).toNat then 0b00000010 else 0b00000100)).setPc (s.pc + 3))) ∧
    (7 < a.toNat ∨ 7 < b.toNat →
      exec (.cmp a b) s = .next (s.enterFault .registerIndexOutOfRange (some config.OPC_CMP)))

/-- MOD: encoding, unsigned remainder, DivideByZero on a zero divisor, register-index fault first.
41_alu.md R105, whole. -/
def Obligations.ModMeaning : Prop :=
  ∀ (a b : Byte) (s : State),
    config.OPC_MOD = 0b10100100 ∧
    (∀ rest, decode config (config.OPC_MOD :: a :: b :: rest) = .ok (.mod a b, rest)) ∧
    (∀ ra rb : RegIdx, a.toNat = ra.val → b.toNat = rb.val → s.readReg rb ≠ 0 →
      exec (.mod a b) s =
        .next ((s.writeReg ra (BitVec.ofNat 8 ((s.readReg ra).toNat % (s.readReg rb).toNat))).setPc (s.pc + 3)) ∧
      (s.readReg ra).toNat % (s.readReg rb).toNat < (s.readReg rb).toNat) ∧
    (∀ ra rb : RegIdx, a.toNat = ra.val → b.toNat = rb.val → s.readReg rb = 0 →
      exec (.mod a b) s = .next (s.enterFault .divideByZero (some config.OPC_MOD))) ∧
    (7 < a.toNat ∨ 7 < b.toNat →
      exec (.mod a b) s = .next (s.enterFault .registerIndexOutOfRange (some config.OPC_MOD)))

/-- MUL: encoding, result, everything else unchanged, and its register-index fault. 41_alu.md
R106, whole. -/
def Obligations.MulMeaning : Prop :=
  ∀ (a b : Byte) (s : State),
    config.OPC_MUL = 0b10100010 ∧
    (∀ rest, decode config (config.OPC_MUL :: a :: b :: rest) = .ok (.mul a b, rest)) ∧
    (∀ ra rb : RegIdx, a.toNat = ra.val → b.toNat = rb.val →
      exec (.mul a b) s = .next ((s.writeReg ra (BitVec.ofNat 8 (((s.readReg ra).toNat * (s.readReg rb).toNat) % 256))).setPc (s.pc + 3))) ∧
    (7 < a.toNat ∨ 7 < b.toNat →
      exec (.mul a b) s = .next (s.enterFault .registerIndexOutOfRange (some config.OPC_MUL)))

/-- NOT: encoding, effect, everything else unchanged, and its register-index fault. 41_alu.md
R107, whole. -/
def Obligations.NotMeaning : Prop :=
  ∀ (a : Byte) (s : State),
    config.OPC_NOT = 0b01101001 ∧
    (∀ rest, decode config (config.OPC_NOT :: a :: rest) = .ok (.not a, rest)) ∧
    (∀ ra : RegIdx, a.toNat = ra.val →
      exec (.not a) s =
        .next ((s.writeReg ra (BitVec.ofNat 8 (255 - (s.readReg ra).toNat))).setPc (s.pc + 2))) ∧
    (7 < a.toNat →
      exec (.not a) s = .next (s.enterFault .registerIndexOutOfRange (some config.OPC_NOT)))

/-- OR: encoding, result, everything else unchanged, and its register-index fault. 41_alu.md R108,
whole. -/
def Obligations.OrMeaning : Prop :=
  ∀ (a b : Byte) (s : State),
    config.OPC_OR = 0b10101010 ∧
    (∀ rest, decode config (config.OPC_OR :: a :: b :: rest) = .ok (.or a b, rest)) ∧
    (∀ ra rb : RegIdx, a.toNat = ra.val → b.toNat = rb.val →
      exec (.or a b) s = .next ((s.writeReg ra (s.readReg ra ||| s.readReg rb)).setPc (s.pc + 3))) ∧
    (7 < a.toNat ∨ 7 < b.toNat →
      exec (.or a b) s = .next (s.enterFault .registerIndexOutOfRange (some config.OPC_OR)))

/-- SHL: encoding, result, everything else unchanged, and its register-index fault. 41_alu.md
R109, whole. -/
def Obligations.ShlMeaning : Prop :=
  ∀ (a b : Byte) (s : State),
    config.OPC_SHL = 0b10101100 ∧
    (∀ rest, decode config (config.OPC_SHL :: a :: b :: rest) = .ok (.shl a b, rest)) ∧
    (∀ ra rb : RegIdx, a.toNat = ra.val → b.toNat = rb.val →
      exec (.shl a b) s = .next ((s.writeReg ra (BitVec.ofNat 8 (((s.readReg ra).toNat * 2 ^ (s.readReg rb).toNat) % 256))).setPc (s.pc + 3))) ∧
    (7 < a.toNat ∨ 7 < b.toNat →
      exec (.shl a b) s = .next (s.enterFault .registerIndexOutOfRange (some config.OPC_SHL)))

/-- SHR: encoding, result, everything else unchanged, and its register-index fault. 41_alu.md
R110, whole. -/
def Obligations.ShrMeaning : Prop :=
  ∀ (a b : Byte) (s : State),
    config.OPC_SHR = 0b10101101 ∧
    (∀ rest, decode config (config.OPC_SHR :: a :: b :: rest) = .ok (.shr a b, rest)) ∧
    (∀ ra rb : RegIdx, a.toNat = ra.val → b.toNat = rb.val →
      exec (.shr a b) s = .next ((s.writeReg ra (BitVec.ofNat 8 ((s.readReg ra).toNat / 2 ^ (s.readReg rb).toNat))).setPc (s.pc + 3))) ∧
    (7 < a.toNat ∨ 7 < b.toNat →
      exec (.shr a b) s = .next (s.enterFault .registerIndexOutOfRange (some config.OPC_SHR)))

/-- XOR: encoding, result, everything else unchanged, and its register-index fault. 41_alu.md
R111, whole. -/
def Obligations.XorMeaning : Prop :=
  ∀ (a b : Byte) (s : State),
    config.OPC_XOR = 0b10101011 ∧
    (∀ rest, decode config (config.OPC_XOR :: a :: b :: rest) = .ok (.xor a b, rest)) ∧
    (∀ ra rb : RegIdx, a.toNat = ra.val → b.toNat = rb.val →
      exec (.xor a b) s = .next ((s.writeReg ra (s.readReg ra ^^^ s.readReg rb)).setPc (s.pc + 3))) ∧
    (7 < a.toNat ∨ 7 < b.toNat →
      exec (.xor a b) s = .next (s.enterFault .registerIndexOutOfRange (some config.OPC_XOR)))

/-- SHL and SHR by 8 or more give 0, and SHR of a register by itself gives 0. The corner cases of
41_alu.md R109 and R110: the amount is not reduced modulo 8. -/
def Obligations.ShiftBeyondWidthGivesZero : Prop :=
  (∀ (a b : Byte) (ra rb : RegIdx) (s : State), a.toNat = ra.val → b.toNat = rb.val →
    8 ≤ (s.readReg rb).toNat →
    (∃ t, exec (.shl a b) s = .next t ∧ t.readReg ra = 0) ∧
    (∃ t, exec (.shr a b) s = .next t ∧ t.readReg ra = 0)) ∧
  (∀ (a : Byte) (ra : RegIdx) (s : State), a.toNat = ra.val →
    ∃ t, exec (.shr a a) s = .next t ∧ t.readReg ra = 0)

/-- NOT, ADDI 1 and ADD compute x[a] - x[b] modulo 256. The subtraction sentence of 41_alu.md
R112. -/
def Obligations.SubtractionFromNotAddiAdd : Prop :=
  ∀ (a b : Byte) (ra rb : RegIdx) (s : State), a.toNat = ra.val → b.toNat = rb.val → ra ≠ rb →
    ∃ u v t, exec (.not b) s = .next u ∧ exec (.addi b 1) u = .next v ∧
      exec (.add a b) v = .next t ∧ t.readReg ra = s.readReg ra - s.readReg rb

/-- DivideByZero is raised by MOD with a zero divisor register, and by nothing else.
60_exceptions.md R144, whole. -/
def Obligations.DivideByZeroOnlyByMod : Prop :=
  (∀ (a b : Byte) (ra rb : RegIdx) (s : State), a.toNat = ra.val → b.toNat = rb.val →
    s.readReg rb = 0 →
    exec (.mod a b) s = .next (s.enterFault .divideByZero (some config.OPC_MOD))) ∧
  (∀ (i : Instr) (s t : State) (f : FaultRecord), s.fault = none → exec i s = .next t →
    t.fault = some f → f.cause = .divideByZero →
    ∃ (a b : Byte) (rb : RegIdx), i = .mod a b ∧ b.toNat = rb.val ∧ s.readReg rb = 0 ∧
      (∀ q, t.readReg q = s.readReg q) ∧ t.pc = s.pc ∧ t.status = .faulted)


/-! ## Control family (42_control.md); the note at the head of the ALU family holds here too -/

/-- LDI: encoding, result, everything else unchanged, and its register-index fault. 42_control.md
R120, whole. -/
def Obligations.LdiMeaning : Prop :=
  ∀ (a imm : Byte) (s : State),
    config.OPC_LDI = 0b10000010 ∧
    (∀ rest, decode config (config.OPC_LDI :: a :: imm :: rest) = .ok (.ldi a imm, rest)) ∧
    (∀ ra : RegIdx, a.toNat = ra.val →
      exec (.ldi a imm) s = .next ((s.writeReg ra imm).setPc (s.pc + 3))) ∧
    (7 < a.toNat →
      exec (.ldi a imm) s = .next (s.enterFault .registerIndexOutOfRange (some config.OPC_LDI)))

/-- PRN: encoding, effect, everything else unchanged, and its register-index fault. 42_control.md
R121, whole. -/
def Obligations.PrnMeaning : Prop :=
  ∀ (a : Byte) (s : State),
    config.OPC_PRN = 0b01000111 ∧
    (∀ rest, decode config (config.OPC_PRN :: a :: rest) = .ok (.prn a, rest)) ∧
    (∀ ra : RegIdx, a.toNat = ra.val →
      exec (.prn a) s =
        .next ({ s with out := s.out ++ [s.readReg ra], pc := s.pc + 2 })) ∧
    (7 < a.toNat →
      exec (.prn a) s = .next (s.enterFault .registerIndexOutOfRange (some config.OPC_PRN)))

/-- PUSH: encoding, effect, everything else unchanged, and its register-index fault. 42_control.md
R122, whole. -/
def Obligations.PushMeaning : Prop :=
  ∀ (a : Byte) (s : State),
    config.OPC_PUSH = 0b01000101 ∧
    (∀ rest, decode config (config.OPC_PUSH :: a :: rest) = .ok (.push a, rest)) ∧
    (∀ ra : RegIdx, a.toNat = ra.val →
      exec (.push a) s =
        .next (((s.writeReg 7 (s.readReg 7 - 1)).store (s.readReg 7 - 1)
          ((s.writeReg 7 (s.readReg 7 - 1)).readReg ra)).setPc (s.pc + 2))) ∧
    (7 < a.toNat →
      exec (.push a) s = .next (s.enterFault .registerIndexOutOfRange (some config.OPC_PUSH)))

/-- POP: encoding, effect, everything else unchanged, and its register-index fault. 42_control.md
R123, whole. -/
def Obligations.PopMeaning : Prop :=
  ∀ (a : Byte) (s : State),
    config.OPC_POP = 0b01000110 ∧
    (∀ rest, decode config (config.OPC_POP :: a :: rest) = .ok (.pop a, rest)) ∧
    (∀ ra : RegIdx, a.toNat = ra.val →
      exec (.pop a) s =
        .next ((let u := s.writeReg ra (s.load (s.readReg 7))
          (u.writeReg 7 (u.readReg 7 + 1)).setPc (s.pc + 2)))) ∧
    (7 < a.toNat →
      exec (.pop a) s = .next (s.enterFault .registerIndexOutOfRange (some config.OPC_POP)))

/-- CALL: encoding, effect, everything else unchanged, and its register-index fault. 42_control.md
R124, whole. -/
def Obligations.CallMeaning : Prop :=
  ∀ (a : Byte) (s : State),
    config.OPC_CALL = 0b01010000 ∧
    (∀ rest, decode config (config.OPC_CALL :: a :: rest) = .ok (.call a, rest)) ∧
    (∀ ra : RegIdx, a.toNat = ra.val →
      exec (.call a) s =
        .next (((s.writeReg 7 (s.readReg 7 - 1)).store (s.readReg 7 - 1)
          (BitVec.ofNat 8 (s.pc.toNat + 2))).setPc
            (zext9 ((s.writeReg 7 (s.readReg 7 - 1)).readReg ra)))) ∧
    (s.pc.toNat ≤ 253 → (BitVec.ofNat 8 (s.pc.toNat + 2)).toNat = s.pc.toNat + 2) ∧
    (7 < a.toNat →
      exec (.call a) s = .next (s.enterFault .registerIndexOutOfRange (some config.OPC_CALL)))

/-- RET: encoding, pc from the stack, SP incremented, everything else unchanged. 42_control.md
R125, whole. -/
def Obligations.RetMeaning : Prop :=
  ∀ s : State,
    config.OPC_RET = 0b00010001 ∧
    (∀ rest, decode config (config.OPC_RET :: rest) = .ok (.ret, rest)) ∧
    exec .ret s =
      .next ((s.writeReg 7 (s.readReg 7 + 1)).setPc (zext9 (s.load (s.readReg 7))))

/-- JMP: encoding, effect, everything else unchanged, and its register-index fault. 42_control.md
R126, whole. -/
def Obligations.JmpMeaning : Prop :=
  ∀ (a : Byte) (s : State),
    config.OPC_JMP = 0b01010100 ∧
    (∀ rest, decode config (config.OPC_JMP :: a :: rest) = .ok (.jmp a, rest)) ∧
    (∀ ra : RegIdx, a.toNat = ra.val →
      exec (.jmp a) s =
        .next (s.setPc (zext9 (s.readReg ra)))) ∧
    (7 < a.toNat →
      exec (.jmp a) s = .next (s.enterFault .registerIndexOutOfRange (some config.OPC_JMP)))

/-- JEQ: encoding, effect, everything else unchanged, and its register-index fault. 42_control.md
R127, whole. -/
def Obligations.JeqMeaning : Prop :=
  ∀ (a : Byte) (s : State),
    config.OPC_JEQ = 0b01010101 ∧
    (∀ rest, decode config (config.OPC_JEQ :: a :: rest) = .ok (.jeq a, rest)) ∧
    (∀ ra : RegIdx, a.toNat = ra.val →
      exec (.jeq a) s =
        .next (s.setPc (if s.fl.getLsbD 0 = true then zext9 (s.readReg ra) else s.pc + 2))) ∧
    (7 < a.toNat →
      exec (.jeq a) s = .next (s.enterFault .registerIndexOutOfRange (some config.OPC_JEQ)))

/-- JNE: encoding, effect, everything else unchanged, and its register-index fault. 42_control.md
R128, whole. -/
def Obligations.JneMeaning : Prop :=
  ∀ (a : Byte) (s : State),
    config.OPC_JNE = 0b01010110 ∧
    (∀ rest, decode config (config.OPC_JNE :: a :: rest) = .ok (.jne a, rest)) ∧
    (∀ ra : RegIdx, a.toNat = ra.val →
      exec (.jne a) s =
        .next (s.setPc (if s.fl.getLsbD 0 = false then zext9 (s.readReg ra) else s.pc + 2))) ∧
    (7 < a.toNat →
      exec (.jne a) s = .next (s.enterFault .registerIndexOutOfRange (some config.OPC_JNE)))

/-- ST: encoding, the one cell written, everything else unchanged, and its register-index fault.
42_control.md R129, whole. -/
def Obligations.StMeaning : Prop :=
  ∀ (a b : Byte) (s : State),
    config.OPC_ST = 0b10000100 ∧
    (∀ rest, decode config (config.OPC_ST :: a :: b :: rest) = .ok (.st a b, rest)) ∧
    (∀ ra rb : RegIdx, a.toNat = ra.val → b.toNat = rb.val →
      exec (.st a b) s = .next ((s.store (s.readReg ra) (s.readReg rb)).setPc (s.pc + 3)) ∧
      ((s.store (s.readReg ra) (s.readReg rb)).setPc (s.pc + 3)).load (s.readReg ra) =
        s.readReg rb) ∧
    (7 < a.toNat ∨ 7 < b.toNat →
      exec (.st a b) s = .next (s.enterFault .registerIndexOutOfRange (some config.OPC_ST)))

/-- HLT: encoding, status Halted, pc + 1, everything else unchanged. 42_control.md R130, whose
advance of pc the spec marks [derived]. -/
def Obligations.HltMeaning : Prop :=
  ∀ s : State,
    config.OPC_HLT = 0b00000001 ∧
    (∀ rest, decode config (config.OPC_HLT :: rest) = .ok (.hlt, rest)) ∧
    exec .hlt s = .next { s with status := .halted, pc := s.pc + 1 }

/-- PUSH R7 stores the new SP, POP R7 leaves the popped byte plus 1, CALL R7 jumps to the new SP.
42_control.md R134, the spec's decision D11 (log 10). -/
def Obligations.StackInstructionsNamingR7 : Prop :=
  ∀ s : State,
    (∃ t, exec (.push 7) s = .next t ∧ t.readReg 7 = s.readReg 7 - 1 ∧
      t.load (s.readReg 7 - 1) = s.readReg 7 - 1) ∧
    (∃ t, exec (.pop 7) s = .next t ∧ t.readReg 7 = s.load (s.readReg 7) + 1) ∧
    (∃ t, exec (.call 7) s = .next t ∧ t.readReg 7 = s.readReg 7 - 1 ∧
      t.load (s.readReg 7 - 1) = BitVec.ofNat 8 (s.pc.toNat + 2) ∧
      t.pc = zext9 (s.readReg 7 - 1))

/-- A POP restores what a PUSH stored, and SP, if SP and the cell are as the PUSH left them.
42_control.md R132, whose property the spec marks [derived]. -/
def Obligations.PushThenPopRestores : Prop :=
  ∀ (a b : Byte) (ra rb : RegIdx) (s : State), a.toNat = ra.val → b.toNat = rb.val →
    ra ≠ 7 → rb ≠ 7 →
    ∃ u, exec (.push a) s = .next u ∧
      ∀ v : State, v.readReg 7 = u.readReg 7 → v.load (u.readReg 7) = u.load (u.readReg 7) →
        ∃ t, exec (.pop b) v = .next t ∧ t.readReg rb = s.readReg ra ∧ t.readReg 7 = s.readReg 7

/-- A RET resumes at call_pc + 2 if SP and the return cell are as the CALL left them.
42_control.md R133, whose property the spec marks [derived]. -/
def Obligations.CallThenRetResumes : Prop :=
  ∀ (a : Byte) (ra : RegIdx) (s : State), a.toNat = ra.val → s.pc.toNat ≤ 253 →
    ∃ u, exec (.call a) s = .next u ∧
      ∀ v : State, v.readReg 7 = u.readReg 7 → v.load (u.readReg 7) = u.load (u.readReg 7) →
        ∃ t, exec .ret v = .next t ∧ t.pc.toNat = s.pc.toNat + 2 ∧ t.readReg 7 = s.readReg 7

/-- After CMP, JEQ jumps and JNE falls through exactly when the registers were equal. The source's
property S2, over 41_alu.md R104 and 42_control.md R127, R128. -/
def Obligations.CompareThenBranch : Prop :=
  ∀ (a b d : Byte) (ra rb rd : RegIdx) (s : State), a.toNat = ra.val → b.toNat = rb.val →
    d.toNat = rd.val →
    ∃ u j n, exec (.cmp a b) s = .next u ∧ exec (.jeq d) u = .next j ∧ exec (.jne d) u = .next n ∧
      (s.readReg ra = s.readReg rb → j.pc = zext9 (s.readReg rd) ∧ n.pc = u.pc + 2) ∧
      (s.readReg ra ≠ s.readReg rb → j.pc = u.pc + 2 ∧ n.pc = zext9 (s.readReg rd))


/-! ## Frames: what is unchanged when exec gives a next state (a faulting one included) -/

/-- Frame of the instructions that write x[a]: ADD, ADDI, AND, MOD, MUL, NOT, OR, SHL, SHR, XOR,
LDI. 41_alu.md R100 and 42_control.md R120; the destination register is `x[a]`. -/
def Obligations.RegisterWriterFrame : Prop :=
  ∀ (a b : Byte) (i : Instr) (s t : State),
    i ∈ [Instr.add a b, .addi a b, .and a b, .mod a b, .mul a b, .not a, .or a b, .shl a b,
      .shr a b, .xor a b, .ldi a b] →
    exec i s = .next t →
    (∀ q : RegIdx, q.val ≠ a.toNat → t.readReg q = s.readReg q) ∧ t.fl = s.fl ∧
    (∀ x, t.load x = s.load x) ∧ t.out = s.out ∧
    (i.wf = true →
      (i = .mod a b → ∀ rb : RegIdx, b.toNat = rb.val → s.readReg rb ≠ 0) →
      t.status = s.status ∧ t.fault = s.fault)

/-- Frame of CMP, PRN, JMP, JEQ, JNE and HLT: no register and no cell changes. 10_state.md R14,
R22, 42_control.md R131. -/
def Obligations.NoStoreFrame : Prop :=
  ∀ (a b : Byte) (i : Instr) (s t : State),
    i ∈ [Instr.cmp a b, .prn a, .jmp a, .jeq a, .jne a, .hlt] → exec i s = .next t →
    (∀ q, t.readReg q = s.readReg q) ∧ (∀ x, t.load x = s.load x) ∧
    (i ≠ .cmp a b → t.fl = s.fl) ∧ (i ≠ .prn a → t.out = s.out) ∧
    (i.wf = true → t.fault = s.fault ∧ (i ≠ .hlt → t.status = s.status))

/-- Frame of ST, PUSH and CALL: only the addressed cell, and for PUSH and CALL only SP, change.
42_control.md R122, R124, R129 and 20_memory.md R40; the addresses are the expressions the
meanings use. -/
def Obligations.StoreFrame : Prop :=
  (∀ (a b : Byte) (ra rb : RegIdx) (s t : State), a.toNat = ra.val → b.toNat = rb.val →
    exec (.st a b) s = .next t →
    (∀ q, t.readReg q = s.readReg q) ∧ (∀ x, x ≠ s.readReg ra → t.load x = s.load x) ∧
    t.fl = s.fl ∧ t.out = s.out ∧ t.status = s.status ∧ t.fault = s.fault) ∧
  (∀ (a : Byte) (ra : RegIdx) (i : Instr) (s t : State), a.toNat = ra.val →
    i ∈ [Instr.push a, .call a] → exec i s = .next t →
    (∀ q : RegIdx, q ≠ 7 → t.readReg q = s.readReg q) ∧
    (∀ x, x ≠ s.decSp.sp → t.load x = s.load x) ∧
    t.fl = s.fl ∧ t.out = s.out ∧ t.status = s.status ∧ t.fault = s.fault) ∧
  (∀ (a b : Byte) (i : Instr) (s t : State), i ∈ [Instr.st a b, .push a, .call a] →
    i.wf = false → exec i s = .next t →
    (∀ q, t.readReg q = s.readReg q) ∧ (∀ x, t.load x = s.load x) ∧ t.fl = s.fl ∧
    t.out = s.out ∧ t.pc = s.pc)

/-- Frame of POP and RET: no cell changes; POP writes x[a] and SP, RET only SP. 42_control.md
R123, R125. -/
def Obligations.PopFrame : Prop :=
  (∀ (a : Byte) (s t : State), exec (.pop a) s = .next t →
    (∀ q : RegIdx, q.val ≠ a.toNat → q ≠ 7 → t.readReg q = s.readReg q) ∧
    (∀ x, t.load x = s.load x) ∧ t.fl = s.fl ∧ t.out = s.out ∧
    (a.toNat ≤ 7 → t.status = s.status ∧ t.fault = s.fault) ∧
    (7 < a.toNat → (∀ q, t.readReg q = s.readReg q) ∧ t.pc = s.pc)) ∧
  (∀ s t : State, exec .ret s = .next t →
    (∀ q : RegIdx, q ≠ 7 → t.readReg q = s.readReg q) ∧ (∀ x, t.load x = s.load x) ∧
    t.fl = s.fl ∧ t.out = s.out ∧ t.status = s.status ∧ t.fault = s.fault)


/-! ## Memory (20_memory.md) and the placing of an instruction -/

/-- A byte stored by ST is what the next fetch reads from that cell. 20_memory.md R51, marked
[derived] there. -/
def Obligations.StoredByteIsFetched : Prop :=
  ∀ (a b : Byte) (ra rb : RegIdx) (s t : State), a.toNat = ra.val → b.toNat = rb.val →
    exec (.st a b) s = .next t →
    ∀ bytes, t.fetch = some bytes → ∀ k, k < 3 →
      t.pc.toNat + k = (s.readReg ra).toNat → bytes[k]? = some (s.readReg rb)

/-- Two canonical memories that read alike at all 256 addresses are the same memory. 10_state.md
R29: memory is 256 cells and nothing more; the canonical list is the model's form (log 16). -/
def Obligations.MemoryReadsDecideMemory : Prop :=
  ∀ m n : Memory, m.wf → n.wf → (∀ x, x < 256 → m.read x = n.read x) → m = n

/-- An instruction placed at the fetch address is what the next step executes. On a running machine
with pc at most 253, placing is the load contract of 70_reset_and_hazards.md R172 for one
instruction and touches memory alone (second clause). On any other machine the first clause holds
only because `withFetchWord` first sets Running, empties the record of a machine that was not
running, and resets a pc above 253: the model's own choice (DESIGN CHOICE, log 12), no rule of the
spec. -/
def Obligations.PlacedWordIsExecuted : Prop :=
  ∀ (s : State) (nbits w : Nat),
    (∀ i, decodeTableWord nbits w = some i →
      step (s.withFetchWord nbits w) = exec i (s.withFetchWord nbits w)) ∧
    (s.status = .running → s.pc.toNat ≤ 253 →
      s.withFetchWord nbits w = { s with mem := (s.withFetchWord nbits w).mem })
end

