-- ==== Sys2Proof/Laws/Config.lean ====
section
/-! SUPPORT. What a legal configuration fixes: the layout of the opcode byte and the fields its decoder reads. -/

namespace Sys2Proof

theorem hasFields_iff (opcode : Byte) (count : Nat) (alu sets : Bool) :
    hasFields opcode count alu sets = true ↔
      (opcode.extractLsb' 6 2).toNat = count ∧ opcode.getLsbD 5 = alu ∧ opcode.getLsbD 4 = sets := by
  simp [hasFields, and_assoc]

theorem Config.layoutWf_iff (c : Config) :
    c.layoutWf = true ↔ c.FAMILY_BIT = 0b00100000 ∧ c.SETS_PC_BIT = 0b00010000 ∧
      c.OPERAND_COUNT_SHIFT = 6 ∧ c.OPERAND_COUNT_MASK = 0b11 := by
  simp [Config.layoutWf, and_assoc]

/-- With the source's layout the decoder reads bits 7:6, 5 and 4 (30_encoding.md R61). -/
theorem fields_of_layoutWf {c : Config} (h : c.layoutWf = true) (opcode : Byte) :
    operandCount c opcode = (opcode.extractLsb' 6 2).toNat ∧
    isAlu c opcode = opcode.getLsbD 5 ∧ setsPc c opcode = opcode.getLsbD 4 := by
  obtain ⟨hf, hp, hs, hm⟩ := c.layoutWf_iff.1 h
  have read : ∀ o : Byte, ((o >>> 6) &&& 0b11).toNat = (o.extractLsb' 6 2).toNat ∧
      (o &&& 0b00100000 != 0) = o.getLsbD 5 ∧ (o &&& 0b00010000 != 0) = o.getLsbD 4 := by decide
  simpa only [operandCount, isAlu, setsPc, hf, hp, hs, hm] using read opcode

theorem Config.wf_layout {c : Config} (h : c.wf = true) : c.layoutWf = true := by
  simp only [Config.wf, Bool.and_eq_true] at h; tauto

theorem Config.wf_nodup {c : Config} (h : c.wf = true) : (opcodes c).Nodup := by
  simp only [Config.wf, Bool.and_eq_true, decide_eq_true_eq] at h; tauto

end Sys2Proof
end

