-- ==== Sys2Proof/Laws/State.lean ====
section
/-! SUPPORT. What each field, register and cell of the state is after each update of it. -/

namespace Sys2Proof.Machine

variable (s : State)

/-! ## writeReg -/

@[simp] theorem State.writeReg_regs (r : RegIdx) (v : Byte) : (s.writeReg r v).regs = s.regs.set r v := rfl
@[simp] theorem State.writeReg_pc (r : RegIdx) (v : Byte) : (s.writeReg r v).pc = s.pc := rfl
@[simp] theorem State.writeReg_fl (r : RegIdx) (v : Byte) : (s.writeReg r v).fl = s.fl := rfl
@[simp] theorem State.writeReg_status (r : RegIdx) (v : Byte) : (s.writeReg r v).status = s.status := rfl
@[simp] theorem State.writeReg_fault (r : RegIdx) (v : Byte) : (s.writeReg r v).fault = s.fault := rfl
@[simp] theorem State.writeReg_mem (r : RegIdx) (v : Byte) : (s.writeReg r v).mem = s.mem := rfl
@[simp] theorem State.writeReg_out (r : RegIdx) (v : Byte) : (s.writeReg r v).out = s.out := rfl

@[simp] theorem State.load_writeReg (r : RegIdx) (v : Byte) (x : Byte) : (s.writeReg r v).load x = s.load x := rfl

/-! ## store -/

@[simp] theorem State.store_regs (a v : Byte) : (s.store a v).regs = s.regs := rfl
@[simp] theorem State.store_pc (a v : Byte) : (s.store a v).pc = s.pc := rfl
@[simp] theorem State.store_fl (a v : Byte) : (s.store a v).fl = s.fl := rfl
@[simp] theorem State.store_status (a v : Byte) : (s.store a v).status = s.status := rfl
@[simp] theorem State.store_fault (a v : Byte) : (s.store a v).fault = s.fault := rfl
@[simp] theorem State.store_mem (a v : Byte) : (s.store a v).mem = s.mem.write a.toNat v := rfl
@[simp] theorem State.store_out (a v : Byte) : (s.store a v).out = s.out := rfl

@[simp] theorem State.readReg_store (a v : Byte) (q : RegIdx) : (s.store a v).readReg q = s.readReg q := rfl
@[simp] theorem State.sp_store (a v : Byte) : (s.store a v).sp = s.sp := rfl

/-! ## writeFl -/

@[simp] theorem State.writeFl_regs (v : Byte) : (s.writeFl v).regs = s.regs := rfl
@[simp] theorem State.writeFl_pc (v : Byte) : (s.writeFl v).pc = s.pc := rfl
@[simp] theorem State.writeFl_fl (v : Byte) : (s.writeFl v).fl = v := rfl
@[simp] theorem State.writeFl_status (v : Byte) : (s.writeFl v).status = s.status := rfl
@[simp] theorem State.writeFl_fault (v : Byte) : (s.writeFl v).fault = s.fault := rfl
@[simp] theorem State.writeFl_mem (v : Byte) : (s.writeFl v).mem = s.mem := rfl
@[simp] theorem State.writeFl_out (v : Byte) : (s.writeFl v).out = s.out := rfl

@[simp] theorem State.readReg_writeFl (v : Byte) (q : RegIdx) : (s.writeFl v).readReg q = s.readReg q := rfl
@[simp] theorem State.sp_writeFl (v : Byte) : (s.writeFl v).sp = s.sp := rfl
@[simp] theorem State.load_writeFl (v : Byte) (x : Byte) : (s.writeFl v).load x = s.load x := rfl

/-! ## setPc -/

@[simp] theorem State.setPc_regs (v : Pc) : (s.setPc v).regs = s.regs := rfl
@[simp] theorem State.setPc_pc (v : Pc) : (s.setPc v).pc = v := rfl
@[simp] theorem State.setPc_fl (v : Pc) : (s.setPc v).fl = s.fl := rfl
@[simp] theorem State.setPc_status (v : Pc) : (s.setPc v).status = s.status := rfl
@[simp] theorem State.setPc_fault (v : Pc) : (s.setPc v).fault = s.fault := rfl
@[simp] theorem State.setPc_mem (v : Pc) : (s.setPc v).mem = s.mem := rfl
@[simp] theorem State.setPc_out (v : Pc) : (s.setPc v).out = s.out := rfl

@[simp] theorem State.readReg_setPc (v : Pc) (q : RegIdx) : (s.setPc v).readReg q = s.readReg q := rfl
@[simp] theorem State.sp_setPc (v : Pc) : (s.setPc v).sp = s.sp := rfl
@[simp] theorem State.load_setPc (v : Pc) (x : Byte) : (s.setPc v).load x = s.load x := rfl

/-! ## emit -/

@[simp] theorem State.emit_regs (v : Byte) : (s.emit v).regs = s.regs := rfl
@[simp] theorem State.emit_pc (v : Byte) : (s.emit v).pc = s.pc := rfl
@[simp] theorem State.emit_fl (v : Byte) : (s.emit v).fl = s.fl := rfl
@[simp] theorem State.emit_status (v : Byte) : (s.emit v).status = s.status := rfl
@[simp] theorem State.emit_fault (v : Byte) : (s.emit v).fault = s.fault := rfl
@[simp] theorem State.emit_mem (v : Byte) : (s.emit v).mem = s.mem := rfl
@[simp] theorem State.emit_out (v : Byte) : (s.emit v).out = s.out ++ [v] := rfl

@[simp] theorem State.readReg_emit (v : Byte) (q : RegIdx) : (s.emit v).readReg q = s.readReg q := rfl
@[simp] theorem State.sp_emit (v : Byte) : (s.emit v).sp = s.sp := rfl
@[simp] theorem State.load_emit (v : Byte) (x : Byte) : (s.emit v).load x = s.load x := rfl

/-! ## halt -/

@[simp] theorem State.halt_regs : s.halt.regs = s.regs := rfl
@[simp] theorem State.halt_pc : s.halt.pc = s.pc := rfl
@[simp] theorem State.halt_fl : s.halt.fl = s.fl := rfl
@[simp] theorem State.halt_status : s.halt.status = .halted := rfl
@[simp] theorem State.halt_fault : s.halt.fault = s.fault := rfl
@[simp] theorem State.halt_mem : s.halt.mem = s.mem := rfl
@[simp] theorem State.halt_out : s.halt.out = s.out := rfl

@[simp] theorem State.readReg_halt (q : RegIdx) : s.halt.readReg q = s.readReg q := rfl
@[simp] theorem State.sp_halt : s.halt.sp = s.sp := rfl
@[simp] theorem State.load_halt (x : Byte) : s.halt.load x = s.load x := rfl

/-! ## enterFault -/

@[simp] theorem State.enterFault_regs (c : FaultCause) (o : Option Byte) : (s.enterFault c o).regs = s.regs := rfl
@[simp] theorem State.enterFault_pc (c : FaultCause) (o : Option Byte) : (s.enterFault c o).pc = s.pc := rfl
@[simp] theorem State.enterFault_fl (c : FaultCause) (o : Option Byte) : (s.enterFault c o).fl = s.fl := rfl
@[simp] theorem State.enterFault_status (c : FaultCause) (o : Option Byte) : (s.enterFault c o).status = .faulted := rfl
@[simp] theorem State.enterFault_fault (c : FaultCause) (o : Option Byte) : (s.enterFault c o).fault = some ⟨c, s.pc, o⟩ := rfl
@[simp] theorem State.enterFault_mem (c : FaultCause) (o : Option Byte) : (s.enterFault c o).mem = s.mem := rfl
@[simp] theorem State.enterFault_out (c : FaultCause) (o : Option Byte) : (s.enterFault c o).out = s.out := rfl

@[simp] theorem State.readReg_enterFault (c : FaultCause) (o : Option Byte) (q : RegIdx) : (s.enterFault c o).readReg q = s.readReg q := rfl
@[simp] theorem State.sp_enterFault (c : FaultCause) (o : Option Byte) : (s.enterFault c o).sp = s.sp := rfl
@[simp] theorem State.load_enterFault (c : FaultCause) (o : Option Byte) (x : Byte) : (s.enterFault c o).load x = s.load x := rfl

/-! ## Reading a register after writing one -/

theorem State.readReg_writeReg (r q : RegIdx) (v : Byte) :
    (s.writeReg r v).readReg q = if q = r then v else s.readReg q := by
  by_cases h : q = r
  · subst h; simp [State.readReg, State.writeReg]
  · have : r.val ≠ q.val := fun e => h (Fin.ext e.symm)
    simp [State.readReg, State.writeReg, h, this]

@[simp] theorem State.readReg_writeReg_self (r : RegIdx) (v : Byte) :
    (s.writeReg r v).readReg r = v := by
  simp [State.readReg_writeReg]

theorem State.readReg_writeReg_ne {r q : RegIdx} (v : Byte) (h : q ≠ r) :
    (s.writeReg r v).readReg q = s.readReg q := by
  simp [State.readReg_writeReg, h]

theorem State.sp_writeReg (r : RegIdx) (v : Byte) :
    (s.writeReg r v).sp = if spIdx = r then v else s.sp := by
  simp [State.sp, State.readReg_writeReg]

/-! ## decSp -/

@[simp] theorem State.decSp_pc : s.decSp.pc = s.pc := rfl
@[simp] theorem State.decSp_fl : s.decSp.fl = s.fl := rfl
@[simp] theorem State.decSp_status : s.decSp.status = s.status := rfl
@[simp] theorem State.decSp_fault : s.decSp.fault = s.fault := rfl
@[simp] theorem State.decSp_mem : s.decSp.mem = s.mem := rfl
@[simp] theorem State.decSp_out : s.decSp.out = s.out := rfl
@[simp] theorem State.load_decSp (x : Byte) : s.decSp.load x = s.load x := rfl
@[simp] theorem State.sp_decSp : s.decSp.sp = BitVec.ofNat 8 ((s.sp.toNat + 255) % 256) := by
  simp [State.decSp, State.sp_writeReg]
theorem State.readReg_decSp {q : RegIdx} (h : q ≠ spIdx) : s.decSp.readReg q = s.readReg q := by
  simp [State.decSp, State.readReg_writeReg, h]

/-! ## incSp -/

@[simp] theorem State.incSp_pc : s.incSp.pc = s.pc := rfl
@[simp] theorem State.incSp_fl : s.incSp.fl = s.fl := rfl
@[simp] theorem State.incSp_status : s.incSp.status = s.status := rfl
@[simp] theorem State.incSp_fault : s.incSp.fault = s.fault := rfl
@[simp] theorem State.incSp_mem : s.incSp.mem = s.mem := rfl
@[simp] theorem State.incSp_out : s.incSp.out = s.out := rfl
@[simp] theorem State.load_incSp (x : Byte) : s.incSp.load x = s.load x := rfl
@[simp] theorem State.sp_incSp : s.incSp.sp = BitVec.ofNat 8 ((s.sp.toNat + 1) % 256) := by
  simp [State.incSp, State.sp_writeReg]
theorem State.readReg_incSp {q : RegIdx} (h : q ≠ spIdx) : s.incSp.readReg q = s.readReg q := by
  simp [State.incSp, State.readReg_writeReg, h]

/-! ## push -/

variable (value : State → Byte)

@[simp] theorem State.push_regs : (s.push value).regs = s.decSp.regs := rfl
@[simp] theorem State.push_pc : (s.push value).pc = s.pc := rfl
@[simp] theorem State.push_fl : (s.push value).fl = s.fl := rfl
@[simp] theorem State.push_status : (s.push value).status = s.status := rfl
@[simp] theorem State.push_fault : (s.push value).fault = s.fault := rfl
@[simp] theorem State.push_mem :
    (s.push value).mem = s.mem.write s.decSp.sp.toNat (value s.decSp) := rfl
@[simp] theorem State.push_out : (s.push value).out = s.out := rfl
@[simp] theorem State.readReg_push (q : RegIdx) : (s.push value).readReg q = s.decSp.readReg q := rfl
@[simp] theorem State.sp_push : (s.push value).sp = s.decSp.sp := rfl

/-! ## advance -/

variable (opcode : Byte)

@[simp] theorem State.advance_regs : (s.advance opcode).regs = s.regs := by
  unfold State.advance; split <;> rfl
@[simp] theorem State.advance_fl : (s.advance opcode).fl = s.fl := by
  unfold State.advance; split <;> rfl
@[simp] theorem State.advance_status : (s.advance opcode).status = s.status := by
  unfold State.advance; split <;> rfl
@[simp] theorem State.advance_fault : (s.advance opcode).fault = s.fault := by
  unfold State.advance; split <;> rfl
@[simp] theorem State.advance_mem : (s.advance opcode).mem = s.mem := by
  unfold State.advance; split <;> rfl
@[simp] theorem State.advance_out : (s.advance opcode).out = s.out := by
  unfold State.advance; split <;> rfl
@[simp] theorem State.readReg_advance (q : RegIdx) : (s.advance opcode).readReg q = s.readReg q := by
  simp [State.readReg]
@[simp] theorem State.sp_advance : (s.advance opcode).sp = s.sp := by
  simp [State.sp]
@[simp] theorem State.load_advance (x : Byte) : (s.advance opcode).load x = s.load x := by
  simp [State.load]

end Sys2Proof.Machine
end

