-- ==== Sys2Proof/Laws/Operands.lean ====
section
/-! SUPPORT. What the operand forms answer, and how far each opcode of the default configuration advances pc. -/

namespace Sys2Proof.Machine

/-! ## The advance of each opcode (10_state.md R20) -/

variable (s : State)

@[simp] theorem State.advance_ADD : s.advance config.OPC_ADD = s.setPc (s.pc + 3) := rfl
@[simp] theorem State.advance_ADDI : s.advance config.OPC_ADDI = s.setPc (s.pc + 3) := rfl
@[simp] theorem State.advance_AND : s.advance config.OPC_AND = s.setPc (s.pc + 3) := rfl
@[simp] theorem State.advance_CMP : s.advance config.OPC_CMP = s.setPc (s.pc + 3) := rfl
@[simp] theorem State.advance_MOD : s.advance config.OPC_MOD = s.setPc (s.pc + 3) := rfl
@[simp] theorem State.advance_MUL : s.advance config.OPC_MUL = s.setPc (s.pc + 3) := rfl
@[simp] theorem State.advance_NOT : s.advance config.OPC_NOT = s.setPc (s.pc + 2) := rfl
@[simp] theorem State.advance_OR : s.advance config.OPC_OR = s.setPc (s.pc + 3) := rfl
@[simp] theorem State.advance_SHL : s.advance config.OPC_SHL = s.setPc (s.pc + 3) := rfl
@[simp] theorem State.advance_SHR : s.advance config.OPC_SHR = s.setPc (s.pc + 3) := rfl
@[simp] theorem State.advance_XOR : s.advance config.OPC_XOR = s.setPc (s.pc + 3) := rfl
@[simp] theorem State.advance_LDI : s.advance config.OPC_LDI = s.setPc (s.pc + 3) := rfl
@[simp] theorem State.advance_PRN : s.advance config.OPC_PRN = s.setPc (s.pc + 2) := rfl
@[simp] theorem State.advance_PUSH : s.advance config.OPC_PUSH = s.setPc (s.pc + 2) := rfl
@[simp] theorem State.advance_POP : s.advance config.OPC_POP = s.setPc (s.pc + 2) := rfl
@[simp] theorem State.advance_CALL : s.advance config.OPC_CALL = s := rfl
@[simp] theorem State.advance_RET : s.advance config.OPC_RET = s := rfl
@[simp] theorem State.advance_JMP : s.advance config.OPC_JMP = s := rfl
@[simp] theorem State.advance_JEQ : s.advance config.OPC_JEQ = s := rfl
@[simp] theorem State.advance_JNE : s.advance config.OPC_JNE = s := rfl
@[simp] theorem State.advance_ST : s.advance config.OPC_ST = s.setPc (s.pc + 3) := rfl
@[simp] theorem State.advance_HLT : s.advance config.OPC_HLT = s.setPc (s.pc + 1) := rfl

/-! ## Operand bytes -/

theorem regIndex_of_eq {a : Byte} {ra : RegIdx} (h : a.toNat = ra.val) : regIndex a = some ra := by
  simp [regIndex, h]

theorem regIndex_of_gt {a : Byte} (h : 7 < a.toNat) : regIndex a = none := by
  simp [regIndex, show ¬a.toNat < 8 by omega]

/-- An operand byte names a register or is above 7. -/
theorem operand_cases (a : Byte) : (∃ ra : RegIdx, a.toNat = ra.val) ∨ 7 < a.toNat := by
  by_cases h : a.toNat < 8
  · exact .inl ⟨⟨a.toNat, h⟩, rfl⟩
  · exact .inr (by omega)

/-! ## The forms -/

variable {s} {opcode a b imm : Byte} {ra rb : RegIdx}

theorem formR_of_eq (run : RegIdx → Result) (ha : a.toNat = ra.val) :
    formR opcode a s run = run ra := by
  simp [formR, regIndex_of_eq ha]

theorem formR_of_gt (run : RegIdx → Result) (ha : 7 < a.toNat) :
    formR opcode a s run = .next (s.enterFault .registerIndexOutOfRange (some opcode)) := by
  simp [formR, regIndex_of_gt ha, registerOutOfRange, raise]

theorem formRI_of_eq (run : RegIdx → Byte → Result) (ha : a.toNat = ra.val) :
    formRI opcode a imm s run = run ra imm :=
  formR_of_eq _ ha

theorem formRI_of_gt (run : RegIdx → Byte → Result) (ha : 7 < a.toNat) :
    formRI opcode a imm s run =
      .next (s.enterFault .registerIndexOutOfRange (some opcode)) :=
  formR_of_gt _ ha

theorem formRR_of_eq (run : RegIdx → RegIdx → Result) (ha : a.toNat = ra.val)
    (hb : b.toNat = rb.val) : formRR opcode a b s run = run ra rb := by
  rw [formRR, formR_of_eq _ ha, formR_of_eq _ hb]

theorem formRR_of_gt (run : RegIdx → RegIdx → Result) (h : 7 < a.toNat ∨ 7 < b.toNat) :
    formRR opcode a b s run =
      .next (s.enterFault .registerIndexOutOfRange (some opcode)) := by
  rcases operand_cases a with ⟨ra, ha⟩ | ha
  · have hb : 7 < b.toNat := h.resolve_left (by have := ra.isLt; omega)
    rw [formRR, formR_of_eq _ ha, formR_of_gt _ hb]
  · rw [formRR, formR_of_gt _ ha]

end Sys2Proof.Machine
end

