-- ==== Sys2Proof/Laws/Exec.lean ====
section
/-! SUPPORT. What executing an instruction can do, said once: it takes one of two faults, or it makes its effect and pc advances. Later proofs cite `exec_cases` instead of unfolding the meanings. -/

namespace Sys2Proof.Machine

/-- The effect of an instruction whose operands are legal, before the advance of pc. -/
inductive Effect (s : State) : Instr → State → Prop where
  | add {a b : Byte} {ra rb : RegIdx} (ha : a.toNat = ra.val) (hb : b.toNat = rb.val) :
      Effect s (.add a b) (s.writeReg ra (addBytes (s.readReg ra) (s.readReg rb)))
  | addi {a imm : Byte} {ra : RegIdx} (ha : a.toNat = ra.val) :
      Effect s (.addi a imm) (s.writeReg ra (addBytes (s.readReg ra) imm))
  | and {a b : Byte} {ra rb : RegIdx} (ha : a.toNat = ra.val) (hb : b.toNat = rb.val) :
      Effect s (.and a b) (s.writeReg ra (andBytes (s.readReg ra) (s.readReg rb)))
  | cmp {a b : Byte} {ra rb : RegIdx} (ha : a.toNat = ra.val) (hb : b.toNat = rb.val) :
      Effect s (.cmp a b) (s.writeFl (compareFlags (s.readReg ra) (s.readReg rb)))
  | mod {a b : Byte} {ra rb : RegIdx} (ha : a.toNat = ra.val) (hb : b.toNat = rb.val) (hz : s.readReg rb ≠ 0) :
      Effect s (.mod a b) (s.writeReg ra (modBytes (s.readReg ra) (s.readReg rb)))
  | mul {a b : Byte} {ra rb : RegIdx} (ha : a.toNat = ra.val) (hb : b.toNat = rb.val) :
      Effect s (.mul a b) (s.writeReg ra (mulBytes (s.readReg ra) (s.readReg rb)))
  | not {a : Byte} {ra : RegIdx} (ha : a.toNat = ra.val) :
      Effect s (.not a) (s.writeReg ra (notByte (s.readReg ra)))
  | or {a b : Byte} {ra rb : RegIdx} (ha : a.toNat = ra.val) (hb : b.toNat = rb.val) :
      Effect s (.or a b) (s.writeReg ra (orBytes (s.readReg ra) (s.readReg rb)))
  | shl {a b : Byte} {ra rb : RegIdx} (ha : a.toNat = ra.val) (hb : b.toNat = rb.val) :
      Effect s (.shl a b) (s.writeReg ra (shlBytes (s.readReg ra) (s.readReg rb)))
  | shr {a b : Byte} {ra rb : RegIdx} (ha : a.toNat = ra.val) (hb : b.toNat = rb.val) :
      Effect s (.shr a b) (s.writeReg ra (shrBytes (s.readReg ra) (s.readReg rb)))
  | xor {a b : Byte} {ra rb : RegIdx} (ha : a.toNat = ra.val) (hb : b.toNat = rb.val) :
      Effect s (.xor a b) (s.writeReg ra (xorBytes (s.readReg ra) (s.readReg rb)))
  | ldi {a imm : Byte} {ra : RegIdx} (ha : a.toNat = ra.val) :
      Effect s (.ldi a imm) (s.writeReg ra imm)
  | prn {a : Byte} {ra : RegIdx} (ha : a.toNat = ra.val) :
      Effect s (.prn a) (s.emit (s.readReg ra))
  | push {a : Byte} {ra : RegIdx} (ha : a.toNat = ra.val) :
      Effect s (.push a) (s.push fun u => u.readReg ra)
  | pop {a : Byte} {ra : RegIdx} (ha : a.toNat = ra.val) :
      Effect s (.pop a) ((s.writeReg ra (s.load s.sp)).incSp)
  | call {a : Byte} {ra : RegIdx} (ha : a.toNat = ra.val) :
      Effect s (.call a) ((s.push fun u => u.returnAddress).setPc (zext9 ((s.push fun u => u.returnAddress).readReg ra)))
  | ret : Effect s .ret (s.incSp.setPc (zext9 (s.load s.sp)))
  | jmp {a : Byte} {ra : RegIdx} (ha : a.toNat = ra.val) :
      Effect s (.jmp a) (s.setPc (zext9 (s.readReg ra)))
  | jeq {a : Byte} {ra : RegIdx} (ha : a.toNat = ra.val) :
      Effect s (.jeq a) (s.setPc (if flagE s.fl then zext9 (s.readReg ra) else s.pc + 2))
  | jne {a : Byte} {ra : RegIdx} (ha : a.toNat = ra.val) :
      Effect s (.jne a) (s.setPc (if flagE s.fl then s.pc + 2 else zext9 (s.readReg ra)))
  | st {a b : Byte} {ra rb : RegIdx} (ha : a.toNat = ra.val) (hb : b.toNat = rb.val) :
      Effect s (.st a b) (s.store (s.readReg ra) (s.readReg rb))
  | hlt : Effect s .hlt s.halt

/-- Every next state of `exec` is a register-index fault, MOD's divide-by-zero fault, or the
instruction's effect followed by the advance its opcode asks for. -/
theorem exec_cases {i : Instr} {s t : State} (h : exec i s = .next t) :
    ((∃ r ∈ i.registerOperands, 7 < r.toNat) ∧
      t = s.enterFault .registerIndexOutOfRange (some (i.opcode config))) ∨
    ((∃ (a b : Byte) (ra rb : RegIdx), i = .mod a b ∧ a.toNat = ra.val ∧ b.toNat = rb.val ∧
        s.readReg rb = 0) ∧
      t = s.enterFault .divideByZero (some config.OPC_MOD)) ∨
    ∃ u, Effect s i u ∧ t = u.advance (i.opcode config) := by
  cases i with
  | add a b =>
    change execAdd a b s = _ at h
    rcases operand_cases a with ⟨ra, ha⟩ | ha
    · rcases operand_cases b with ⟨rb, hb⟩ | hb
      · rw [execAdd, formRR_of_eq _ ha hb] at h
        exact .inr (.inr ⟨_, .add ha hb, (Host.Outcome.next.inj h).symm⟩)
      · rw [execAdd, formRR_of_gt _ (.inr hb)] at h
        exact .inl ⟨⟨b, by simp [Instr.registerOperands], hb⟩, (Host.Outcome.next.inj h).symm⟩
    · rw [execAdd, formRR_of_gt _ (.inl ha)] at h
      exact .inl ⟨⟨a, by simp [Instr.registerOperands], ha⟩, (Host.Outcome.next.inj h).symm⟩
  | addi a imm =>
    change execAddi a imm s = _ at h
    rcases operand_cases a with ⟨ra, ha⟩ | ha
    · rw [execAddi, formRI_of_eq _ ha] at h
      exact .inr (.inr ⟨_, .addi ha, (Host.Outcome.next.inj h).symm⟩)
    · rw [execAddi, formRI_of_gt _ ha] at h
      exact .inl ⟨⟨a, by simp [Instr.registerOperands], ha⟩, (Host.Outcome.next.inj h).symm⟩
  | and a b =>
    change execAnd a b s = _ at h
    rcases operand_cases a with ⟨ra, ha⟩ | ha
    · rcases operand_cases b with ⟨rb, hb⟩ | hb
      · rw [execAnd, formRR_of_eq _ ha hb] at h
        exact .inr (.inr ⟨_, .and ha hb, (Host.Outcome.next.inj h).symm⟩)
      · rw [execAnd, formRR_of_gt _ (.inr hb)] at h
        exact .inl ⟨⟨b, by simp [Instr.registerOperands], hb⟩, (Host.Outcome.next.inj h).symm⟩
    · rw [execAnd, formRR_of_gt _ (.inl ha)] at h
      exact .inl ⟨⟨a, by simp [Instr.registerOperands], ha⟩, (Host.Outcome.next.inj h).symm⟩
  | cmp a b =>
    change execCmp a b s = _ at h
    rcases operand_cases a with ⟨ra, ha⟩ | ha
    · rcases operand_cases b with ⟨rb, hb⟩ | hb
      · rw [execCmp, formRR_of_eq _ ha hb] at h
        exact .inr (.inr ⟨_, .cmp ha hb, (Host.Outcome.next.inj h).symm⟩)
      · rw [execCmp, formRR_of_gt _ (.inr hb)] at h
        exact .inl ⟨⟨b, by simp [Instr.registerOperands], hb⟩, (Host.Outcome.next.inj h).symm⟩
    · rw [execCmp, formRR_of_gt _ (.inl ha)] at h
      exact .inl ⟨⟨a, by simp [Instr.registerOperands], ha⟩, (Host.Outcome.next.inj h).symm⟩
  | mod a b =>
    change execMod a b s = _ at h
    rcases operand_cases a with ⟨ra, ha⟩ | ha
    · rcases operand_cases b with ⟨rb, hb⟩ | hb
      · rw [execMod, formRR_of_eq _ ha hb] at h
        split at h
        · next hz =>
          exact .inr (.inl ⟨⟨a, b, ra, rb, rfl, ha, hb, hz⟩, (Host.Outcome.next.inj h).symm⟩)
        · next hz => exact .inr (.inr ⟨_, .mod ha hb hz, (Host.Outcome.next.inj h).symm⟩)
      · rw [execMod, formRR_of_gt _ (.inr hb)] at h
        exact .inl ⟨⟨b, by simp [Instr.registerOperands], hb⟩, (Host.Outcome.next.inj h).symm⟩
    · rw [execMod, formRR_of_gt _ (.inl ha)] at h
      exact .inl ⟨⟨a, by simp [Instr.registerOperands], ha⟩, (Host.Outcome.next.inj h).symm⟩
  | mul a b =>
    change execMul a b s = _ at h
    rcases operand_cases a with ⟨ra, ha⟩ | ha
    · rcases operand_cases b with ⟨rb, hb⟩ | hb
      · rw [execMul, formRR_of_eq _ ha hb] at h
        exact .inr (.inr ⟨_, .mul ha hb, (Host.Outcome.next.inj h).symm⟩)
      · rw [execMul, formRR_of_gt _ (.inr hb)] at h
        exact .inl ⟨⟨b, by simp [Instr.registerOperands], hb⟩, (Host.Outcome.next.inj h).symm⟩
    · rw [execMul, formRR_of_gt _ (.inl ha)] at h
      exact .inl ⟨⟨a, by simp [Instr.registerOperands], ha⟩, (Host.Outcome.next.inj h).symm⟩
  | not a =>
    change execNot a s = _ at h
    rcases operand_cases a with ⟨ra, ha⟩ | ha
    · rw [execNot, formR_of_eq _ ha] at h
      exact .inr (.inr ⟨_, .not ha, (Host.Outcome.next.inj h).symm⟩)
    · rw [execNot, formR_of_gt _ ha] at h
      exact .inl ⟨⟨a, by simp [Instr.registerOperands], ha⟩, (Host.Outcome.next.inj h).symm⟩
  | or a b =>
    change execOr a b s = _ at h
    rcases operand_cases a with ⟨ra, ha⟩ | ha
    · rcases operand_cases b with ⟨rb, hb⟩ | hb
      · rw [execOr, formRR_of_eq _ ha hb] at h
        exact .inr (.inr ⟨_, .or ha hb, (Host.Outcome.next.inj h).symm⟩)
      · rw [execOr, formRR_of_gt _ (.inr hb)] at h
        exact .inl ⟨⟨b, by simp [Instr.registerOperands], hb⟩, (Host.Outcome.next.inj h).symm⟩
    · rw [execOr, formRR_of_gt _ (.inl ha)] at h
      exact .inl ⟨⟨a, by simp [Instr.registerOperands], ha⟩, (Host.Outcome.next.inj h).symm⟩
  | shl a b =>
    change execShl a b s = _ at h
    rcases operand_cases a with ⟨ra, ha⟩ | ha
    · rcases operand_cases b with ⟨rb, hb⟩ | hb
      · rw [execShl, formRR_of_eq _ ha hb] at h
        exact .inr (.inr ⟨_, .shl ha hb, (Host.Outcome.next.inj h).symm⟩)
      · rw [execShl, formRR_of_gt _ (.inr hb)] at h
        exact .inl ⟨⟨b, by simp [Instr.registerOperands], hb⟩, (Host.Outcome.next.inj h).symm⟩
    · rw [execShl, formRR_of_gt _ (.inl ha)] at h
      exact .inl ⟨⟨a, by simp [Instr.registerOperands], ha⟩, (Host.Outcome.next.inj h).symm⟩
  | shr a b =>
    change execShr a b s = _ at h
    rcases operand_cases a with ⟨ra, ha⟩ | ha
    · rcases operand_cases b with ⟨rb, hb⟩ | hb
      · rw [execShr, formRR_of_eq _ ha hb] at h
        exact .inr (.inr ⟨_, .shr ha hb, (Host.Outcome.next.inj h).symm⟩)
      · rw [execShr, formRR_of_gt _ (.inr hb)] at h
        exact .inl ⟨⟨b, by simp [Instr.registerOperands], hb⟩, (Host.Outcome.next.inj h).symm⟩
    · rw [execShr, formRR_of_gt _ (.inl ha)] at h
      exact .inl ⟨⟨a, by simp [Instr.registerOperands], ha⟩, (Host.Outcome.next.inj h).symm⟩
  | xor a b =>
    change execXor a b s = _ at h
    rcases operand_cases a with ⟨ra, ha⟩ | ha
    · rcases operand_cases b with ⟨rb, hb⟩ | hb
      · rw [execXor, formRR_of_eq _ ha hb] at h
        exact .inr (.inr ⟨_, .xor ha hb, (Host.Outcome.next.inj h).symm⟩)
      · rw [execXor, formRR_of_gt _ (.inr hb)] at h
        exact .inl ⟨⟨b, by simp [Instr.registerOperands], hb⟩, (Host.Outcome.next.inj h).symm⟩
    · rw [execXor, formRR_of_gt _ (.inl ha)] at h
      exact .inl ⟨⟨a, by simp [Instr.registerOperands], ha⟩, (Host.Outcome.next.inj h).symm⟩
  | ldi a imm =>
    change execLdi a imm s = _ at h
    rcases operand_cases a with ⟨ra, ha⟩ | ha
    · rw [execLdi, formRI_of_eq _ ha] at h
      exact .inr (.inr ⟨_, .ldi ha, (Host.Outcome.next.inj h).symm⟩)
    · rw [execLdi, formRI_of_gt _ ha] at h
      exact .inl ⟨⟨a, by simp [Instr.registerOperands], ha⟩, (Host.Outcome.next.inj h).symm⟩
  | prn a =>
    change execPrn a s = _ at h
    rcases operand_cases a with ⟨ra, ha⟩ | ha
    · rw [execPrn, formR_of_eq _ ha] at h
      exact .inr (.inr ⟨_, .prn ha, (Host.Outcome.next.inj h).symm⟩)
    · rw [execPrn, formR_of_gt _ ha] at h
      exact .inl ⟨⟨a, by simp [Instr.registerOperands], ha⟩, (Host.Outcome.next.inj h).symm⟩
  | push a =>
    change execPush a s = _ at h
    rcases operand_cases a with ⟨ra, ha⟩ | ha
    · rw [execPush, formR_of_eq _ ha] at h
      exact .inr (.inr ⟨_, .push ha, (Host.Outcome.next.inj h).symm⟩)
    · rw [execPush, formR_of_gt _ ha] at h
      exact .inl ⟨⟨a, by simp [Instr.registerOperands], ha⟩, (Host.Outcome.next.inj h).symm⟩
  | pop a =>
    change execPop a s = _ at h
    rcases operand_cases a with ⟨ra, ha⟩ | ha
    · rw [execPop, formR_of_eq _ ha] at h
      exact .inr (.inr ⟨_, .pop ha, (Host.Outcome.next.inj h).symm⟩)
    · rw [execPop, formR_of_gt _ ha] at h
      exact .inl ⟨⟨a, by simp [Instr.registerOperands], ha⟩, (Host.Outcome.next.inj h).symm⟩
  | call a =>
    change execCall a s = _ at h
    rcases operand_cases a with ⟨ra, ha⟩ | ha
    · rw [execCall, formR_of_eq _ ha] at h
      exact .inr (.inr ⟨_, .call ha, (Host.Outcome.next.inj h).symm⟩)
    · rw [execCall, formR_of_gt _ ha] at h
      exact .inl ⟨⟨a, by simp [Instr.registerOperands], ha⟩, (Host.Outcome.next.inj h).symm⟩
  | ret => exact .inr (.inr ⟨_, .ret, (Host.Outcome.next.inj h).symm⟩)
  | jmp a =>
    change execJmp a s = _ at h
    rcases operand_cases a with ⟨ra, ha⟩ | ha
    · rw [execJmp, formR_of_eq _ ha] at h
      exact .inr (.inr ⟨_, .jmp ha, (Host.Outcome.next.inj h).symm⟩)
    · rw [execJmp, formR_of_gt _ ha] at h
      exact .inl ⟨⟨a, by simp [Instr.registerOperands], ha⟩, (Host.Outcome.next.inj h).symm⟩
  | jeq a =>
    change execJeq a s = _ at h
    rcases operand_cases a with ⟨ra, ha⟩ | ha
    · rw [execJeq, formR_of_eq _ ha] at h
      exact .inr (.inr ⟨_, .jeq ha, (Host.Outcome.next.inj h).symm⟩)
    · rw [execJeq, formR_of_gt _ ha] at h
      exact .inl ⟨⟨a, by simp [Instr.registerOperands], ha⟩, (Host.Outcome.next.inj h).symm⟩
  | jne a =>
    change execJne a s = _ at h
    rcases operand_cases a with ⟨ra, ha⟩ | ha
    · rw [execJne, formR_of_eq _ ha] at h
      exact .inr (.inr ⟨_, .jne ha, (Host.Outcome.next.inj h).symm⟩)
    · rw [execJne, formR_of_gt _ ha] at h
      exact .inl ⟨⟨a, by simp [Instr.registerOperands], ha⟩, (Host.Outcome.next.inj h).symm⟩
  | st a b =>
    change execSt a b s = _ at h
    rcases operand_cases a with ⟨ra, ha⟩ | ha
    · rcases operand_cases b with ⟨rb, hb⟩ | hb
      · rw [execSt, formRR_of_eq _ ha hb] at h
        exact .inr (.inr ⟨_, .st ha hb, (Host.Outcome.next.inj h).symm⟩)
      · rw [execSt, formRR_of_gt _ (.inr hb)] at h
        exact .inl ⟨⟨b, by simp [Instr.registerOperands], hb⟩, (Host.Outcome.next.inj h).symm⟩
    · rw [execSt, formRR_of_gt _ (.inl ha)] at h
      exact .inl ⟨⟨a, by simp [Instr.registerOperands], ha⟩, (Host.Outcome.next.inj h).symm⟩
  | hlt => exact .inr (.inr ⟨_, .hlt, (Host.Outcome.next.inj h).symm⟩)

end Sys2Proof.Machine
end

