-- ==== Sys2Proof/Laws/Memory.lean ====
section
/-! SUPPORT. Reading after writing a memory cell, and that every memory operation keeps the canonical form. -/

namespace Sys2Proof.Machine

/-! ## Read after write -/

theorem Memory.read_insert (m : Memory) (addr x : Nat) (v : Byte) :
    Memory.read (m.insert addr v) x = if x = addr then v else m.read x := by
  induction m with
  | nil => simp [Memory.insert, Memory.read, eq_comm]
  | cons p rest ih =>
    unfold Memory.insert
    split
    · simp [Memory.read, eq_comm]
    · split
      · next h => subst h; simp only [Memory.read, eq_comm (a := x)]; split <;> rfl
      · next h =>
        simp only [Memory.read, ih]
        by_cases hx : p.1 = x
        · have : x ≠ addr := fun e => h (by omega)
          simp [hx, this]
        · simp [hx]

theorem Memory.read_erase (m : Memory) (addr x : Nat) :
    Memory.read (m.filter (fun p => p.1 != addr)) x =
      if x = addr then config.MEM_FILL else m.read x := by
  induction m with
  | nil => simp [Memory.read]
  | cons p rest ih =>
    by_cases hp : p.1 = addr
    · have hf : (p :: rest).filter (fun p => p.1 != addr) = rest.filter (fun p => p.1 != addr) := by
        simp [hp]
      rw [hf, ih]
      by_cases hx : x = addr
      · simp [hx]
      · have : p.1 ≠ x := fun e => hx (by omega)
        simp [Memory.read, hx, this]
    · have hf : (p :: rest).filter (fun p => p.1 != addr) =
          p :: rest.filter (fun p => p.1 != addr) := by simp [hp]
      rw [hf]
      simp only [Memory.read, ih]
      by_cases hx : p.1 = x
      · have : x ≠ addr := fun e => hp (by omega)
        simp [hx, this]
      · simp [hx]

/-- A read gives the value last written to the cell, and a write leaves every other cell alone
(20_memory.md R40). It holds of every memory, canonical or not. -/
theorem Memory.read_write (m : Memory) (addr x : Nat) (v : Byte) :
    (m.write addr v).read x = if x = addr then v else m.read x := by
  unfold Memory.write
  split
  · next h => rw [Memory.read_erase, h]
  · exact Memory.read_insert m addr x v

theorem State.load_store (s : State) (addr v x : Byte) :
    (s.store addr v).load x = if x = addr then v else s.load x := by
  simp [State.load, Memory.read_write, BitVec.toNat_inj]

@[simp] theorem State.load_store_self (s : State) (addr v : Byte) :
    (s.store addr v).load addr = v := by
  simp [State.load_store]

theorem State.load_store_ne (s : State) {addr x : Byte} (v : Byte) (h : x ≠ addr) :
    (s.store addr v).load x = s.load x := by
  simp [State.load_store, h]

theorem State.load_push (s : State) (value : State → Byte) (x : Byte) :
    (s.push value).load x = if x = s.decSp.sp then value s.decSp else s.load x := by
  simp [State.push, State.load_store]

/-! ## The canonical form -/

theorem Memory.mem_insert {m : Memory} {addr : Nat} {v : Byte} {p : Host.Cell}
    (h : p ∈ m.insert addr v) : p = (addr, v) ∨ p ∈ m := by
  induction m with
  | nil => simpa [Memory.insert] using h
  | cons q rest ih =>
    unfold Memory.insert at h
    split at h
    · simpa using h
    · split at h
      · rcases List.mem_cons.1 h with h | h
        · exact .inl h
        · exact .inr (List.mem_cons_of_mem _ h)
      · rcases List.mem_cons.1 h with h | h
        · exact .inr (h ▸ List.mem_cons_self)
        · exact (ih h).imp_right (List.mem_cons_of_mem _)

theorem Memory.insert_wf {m : Memory} {addr : Nat} {v : Byte} (h : m.wf)
    (ha : addr < config.MEM_SIZE) (hv : v ≠ config.MEM_FILL) : (m.insert addr v).wf := by
  obtain ⟨hs, hc⟩ := h
  refine ⟨?_, fun p hp => ?_⟩
  · clear hc
    induction m with
    | nil => simp [Memory.insert]
    | cons q rest ih =>
      obtain ⟨hq, hr⟩ := List.pairwise_cons.1 hs
      unfold Memory.insert
      split
      · next hlt =>
        refine List.pairwise_cons.2 ⟨fun p hp => ?_, hs⟩
        rcases List.mem_cons.1 hp with rfl | hp
        · exact hlt
        · exact lt_trans hlt (hq p hp)
      · split
        · next he => exact List.pairwise_cons.2 ⟨fun p hp => he ▸ hq p hp, hr⟩
        · next hn he =>
          refine List.pairwise_cons.2 ⟨fun p hp => ?_, ih hr⟩
          rcases Memory.mem_insert hp with rfl | hp
          · show q.1 < addr
            omega
          · exact hq p hp
  · rcases Memory.mem_insert hp with rfl | hp
    · exact ⟨ha, hv⟩
    · exact hc p hp

theorem Memory.write_wf {m : Memory} {addr : Nat} {v : Byte} (h : m.wf)
    (ha : addr < config.MEM_SIZE) : (m.write addr v).wf := by
  unfold Memory.write
  split
  · exact ⟨h.1.filter _, fun p hp => h.2 p (List.mem_of_mem_filter hp)⟩
  · next hv => exact Memory.insert_wf h ha hv

theorem State.store_wf {s : State} (addr v : Byte) (h : s.mem.wf) : (s.store addr v).mem.wf :=
  Memory.write_wf h addr.isLt

theorem State.push_wf {s : State} (value : State → Byte) (h : s.mem.wf) :
    (s.push value).mem.wf :=
  State.store_wf (s := s.decSp) _ _ h

theorem Memory.writeBytes_wf {m : Memory} {addr : Nat} {bytes : List Byte} (h : m.wf)
    (ha : addr + bytes.length ≤ config.MEM_SIZE) : (m.writeBytes addr bytes).wf := by
  induction bytes generalizing m addr with
  | nil => exact h
  | cons v rest ih =>
    simp only [List.length_cons] at ha
    exact ih (Memory.write_wf h (by omega)) (by omega)

/-- A cell after a run of bytes was written from `addr` upward. -/
theorem Memory.read_writeBytes (m : Memory) (addr x : Nat) (bytes : List Byte) :
    (m.writeBytes addr bytes).read x =
      if addr ≤ x ∧ x < addr + bytes.length then bytes.getD (x - addr) 0 else m.read x := by
  induction bytes generalizing m addr with
  | nil => simp [Memory.writeBytes, show ¬(addr ≤ x ∧ x < addr) by omega]
  | cons v rest ih =>
    simp only [Memory.writeBytes, ih, Memory.read_write, List.length_cons]
    rcases lt_trichotomy x addr with h | h | h
    · have h1 : ¬(addr + 1 ≤ x ∧ x < addr + 1 + rest.length) := by omega
      have h2 : ¬(addr ≤ x ∧ x < addr + (rest.length + 1)) := by omega
      have h3 : x ≠ addr := by omega
      simp only [h1, h2, h3, if_false]
    · subst h
      simp
    · obtain ⟨k, rfl⟩ : ∃ k, x = addr + 1 + k := ⟨x - addr - 1, by omega⟩
      have h3 : addr + 1 + k ≠ addr := by omega
      have h4 : addr + 1 + k - addr = k + 1 := by omega
      have h5 : (addr ≤ addr + 1 + k ∧ addr + 1 + k < addr + (rest.length + 1)) ↔
          (addr + 1 ≤ addr + 1 + k ∧ addr + 1 + k < addr + 1 + rest.length) := by omega
      simp only [h3, h4, h5, if_false, List.getD_cons_succ]
      simp

end Sys2Proof.Machine
end

