-- ==== Sys2Proof/Laws/PerInstr.lean ====
section
/-! SUPPORT. The per-instruction family `Layout`: the length, the register operands and the size of each instruction's encoding. -/

namespace Sys2Proof.Laws.Layout

/-- Every byte an instruction's form uses as a register index is one of its encoded operand bytes,
the first encoded byte is its opcode, and it occupies 1 to 3 bytes (30_encoding.md R60, R63). -/
def Statement (i : Instr) : Prop :=
  ∀ c : Config, (encode c i).head? = some (i.opcode c) ∧
    (∀ r ∈ i.registerOperands, r ∈ (encode c i).tail) ∧
    (encode c i).length = 1 + i.operandBytes.length ∧ i.operandBytes.length ≤ 2

theorem add (a b : Byte) : Statement (.add a b) := by
  intro c
  simp [encode, Instr.opcode, Instr.operandBytes, Instr.registerOperands]

theorem addi (a imm : Byte) : Statement (.addi a imm) := by
  intro c
  simp [encode, Instr.opcode, Instr.operandBytes, Instr.registerOperands]

theorem and (a b : Byte) : Statement (.and a b) := by
  intro c
  simp [encode, Instr.opcode, Instr.operandBytes, Instr.registerOperands]

theorem cmp (a b : Byte) : Statement (.cmp a b) := by
  intro c
  simp [encode, Instr.opcode, Instr.operandBytes, Instr.registerOperands]

theorem mod (a b : Byte) : Statement (.mod a b) := by
  intro c
  simp [encode, Instr.opcode, Instr.operandBytes, Instr.registerOperands]

theorem mul (a b : Byte) : Statement (.mul a b) := by
  intro c
  simp [encode, Instr.opcode, Instr.operandBytes, Instr.registerOperands]

theorem not (a : Byte) : Statement (.not a) := by
  intro c
  simp [encode, Instr.opcode, Instr.operandBytes, Instr.registerOperands]

theorem or (a b : Byte) : Statement (.or a b) := by
  intro c
  simp [encode, Instr.opcode, Instr.operandBytes, Instr.registerOperands]

theorem shl (a b : Byte) : Statement (.shl a b) := by
  intro c
  simp [encode, Instr.opcode, Instr.operandBytes, Instr.registerOperands]

theorem shr (a b : Byte) : Statement (.shr a b) := by
  intro c
  simp [encode, Instr.opcode, Instr.operandBytes, Instr.registerOperands]

theorem xor (a b : Byte) : Statement (.xor a b) := by
  intro c
  simp [encode, Instr.opcode, Instr.operandBytes, Instr.registerOperands]

theorem ldi (a imm : Byte) : Statement (.ldi a imm) := by
  intro c
  simp [encode, Instr.opcode, Instr.operandBytes, Instr.registerOperands]

theorem prn (a : Byte) : Statement (.prn a) := by
  intro c
  simp [encode, Instr.opcode, Instr.operandBytes, Instr.registerOperands]

theorem push (a : Byte) : Statement (.push a) := by
  intro c
  simp [encode, Instr.opcode, Instr.operandBytes, Instr.registerOperands]

theorem pop (a : Byte) : Statement (.pop a) := by
  intro c
  simp [encode, Instr.opcode, Instr.operandBytes, Instr.registerOperands]

theorem call (a : Byte) : Statement (.call a) := by
  intro c
  simp [encode, Instr.opcode, Instr.operandBytes, Instr.registerOperands]

theorem ret : Statement .ret := by
  intro c
  simp [encode, Instr.opcode, Instr.operandBytes, Instr.registerOperands]

theorem jmp (a : Byte) : Statement (.jmp a) := by
  intro c
  simp [encode, Instr.opcode, Instr.operandBytes, Instr.registerOperands]

theorem jeq (a : Byte) : Statement (.jeq a) := by
  intro c
  simp [encode, Instr.opcode, Instr.operandBytes, Instr.registerOperands]

theorem jne (a : Byte) : Statement (.jne a) := by
  intro c
  simp [encode, Instr.opcode, Instr.operandBytes, Instr.registerOperands]

theorem st (a b : Byte) : Statement (.st a b) := by
  intro c
  simp [encode, Instr.opcode, Instr.operandBytes, Instr.registerOperands]

theorem hlt : Statement .hlt := by
  intro c
  simp [encode, Instr.opcode, Instr.operandBytes, Instr.registerOperands]

end Sys2Proof.Laws.Layout
end

