-- ==== Sys2Proof/Tests/Slice0.lean ====
section
/-! SUPPORT. Tests: well-formedness refusals, a decoded word per instruction, one-step vectors, and a witness for the hypotheses of every statement. Expected values are those of spec/95_test_vectors.md (V<n>) or of the rule's own example (R<n>); words are written from spec/30_encoding.md sections 2 and 4. -/

namespace Sys2Proof.Tests

open Sys2Proof Sys2Proof.Machine Sys2Proof.Certificates

/-! ## Helpers -/

/-- The reset state with pc, some registers and the bytes at pc set (the conventions of 95_test_vectors.md). -/
def start (pc : Pc) (bytes : List Byte) (regs : List (RegIdx × Byte)) : State :=
  (regs.foldl (fun (s : State) p => s.writeReg p.1 p.2) { State.reset with pc := pc }).placeAtPc bytes

/-- The outcome is a next state with this property. -/
def answers (r : Result) (p : State → Bool) : Bool :=
  match r with
  | .next t => p t
  | .fault _ => false
  | .refused _ => false

/-- One step from `s` answers a next state with this property. -/
def stepTo (s : State) (p : State → Bool) : Bool := answers (step s) p

/-- The record of a fault with this cause, pc and opcode stands in the state. -/
def faultedWith (c : FaultCause) (pc : Pc) (opcode : Option Byte) (t : State) : Bool :=
  t.status == .faulted && t.fault == some ⟨c, pc, opcode⟩

/-! ## WellFormed refuses each ill-formed operand (30_encoding.md R63, R64) -/

theorem test_wf_add : Instr.wf (.add 8 0) = false ∧ Instr.wf (.add 0 255) = false ∧ Instr.wf (.add 7 7) = true := by decide
theorem test_wf_and : Instr.wf (.and 8 0) = false ∧ Instr.wf (.and 0 255) = false ∧ Instr.wf (.and 7 7) = true := by decide
theorem test_wf_cmp : Instr.wf (.cmp 8 0) = false ∧ Instr.wf (.cmp 0 255) = false ∧ Instr.wf (.cmp 7 7) = true := by decide
theorem test_wf_mod : Instr.wf (.mod 8 0) = false ∧ Instr.wf (.mod 0 255) = false ∧ Instr.wf (.mod 7 7) = true := by decide
theorem test_wf_mul : Instr.wf (.mul 8 0) = false ∧ Instr.wf (.mul 0 255) = false ∧ Instr.wf (.mul 7 7) = true := by decide
theorem test_wf_or : Instr.wf (.or 8 0) = false ∧ Instr.wf (.or 0 255) = false ∧ Instr.wf (.or 7 7) = true := by decide
theorem test_wf_shl : Instr.wf (.shl 8 0) = false ∧ Instr.wf (.shl 0 255) = false ∧ Instr.wf (.shl 7 7) = true := by decide
theorem test_wf_shr : Instr.wf (.shr 8 0) = false ∧ Instr.wf (.shr 0 255) = false ∧ Instr.wf (.shr 7 7) = true := by decide
theorem test_wf_xor : Instr.wf (.xor 8 0) = false ∧ Instr.wf (.xor 0 255) = false ∧ Instr.wf (.xor 7 7) = true := by decide
theorem test_wf_st : Instr.wf (.st 8 0) = false ∧ Instr.wf (.st 0 255) = false ∧ Instr.wf (.st 7 7) = true := by decide
theorem test_wf_not : Instr.wf (.not 8) = false ∧ Instr.wf (.not 7) = true := by decide
theorem test_wf_prn : Instr.wf (.prn 8) = false ∧ Instr.wf (.prn 7) = true := by decide
theorem test_wf_push : Instr.wf (.push 8) = false ∧ Instr.wf (.push 7) = true := by decide
theorem test_wf_pop : Instr.wf (.pop 8) = false ∧ Instr.wf (.pop 7) = true := by decide
theorem test_wf_call : Instr.wf (.call 8) = false ∧ Instr.wf (.call 7) = true := by decide
theorem test_wf_jmp : Instr.wf (.jmp 8) = false ∧ Instr.wf (.jmp 7) = true := by decide
theorem test_wf_jeq : Instr.wf (.jeq 8) = false ∧ Instr.wf (.jeq 7) = true := by decide
theorem test_wf_jne : Instr.wf (.jne 8) = false ∧ Instr.wf (.jne 7) = true := by decide
theorem test_wf_addi : Instr.wf (.addi 8 0) = false ∧ Instr.wf (.addi 7 255) = true := by decide
theorem test_wf_ldi : Instr.wf (.ldi 8 0) = false ∧ Instr.wf (.ldi 7 255) = true := by decide
theorem test_wf_no_operand : Instr.wf .ret = true ∧ Instr.wf .hlt = true := by decide

/-- R68: two equal opcodes, or an ALU opcode with bit 5 clear, are no legal configuration. -/
theorem test_config_wf : config.wf = true ∧ ({ config with OPC_ADDI := 0xA0 } : Config).wf = false ∧
    ({ config with OPC_ADD := 0x80 } : Config).wf = false := by decide

/-- The default configuration with bits 5 and 4 exchanged in every opcode and in the field
parameters. -/
def exchangedBits : Config :=
  { config with
    FAMILY_BIT := 0x10, SETS_PC_BIT := 0x20, OPC_ADD := 0x90, OPC_ADDI := 0x9E, OPC_AND := 0x98,
    OPC_CMP := 0x97, OPC_MOD := 0x94, OPC_MUL := 0x92, OPC_NOT := 0x59, OPC_OR := 0x9A,
    OPC_SHL := 0x9C, OPC_SHR := 0x9D, OPC_XOR := 0x9B, OPC_CALL := 0x60, OPC_RET := 0x21,
    OPC_JMP := 0x64, OPC_JEQ := 0x65, OPC_JNE := 0x66 }

/-- R68, R65: an ALU opcode with bit 5 clear is illegal also where the family parameter names
another bit, and other field parameters are illegal beside the right opcodes. -/
theorem test_config_wf_bits : exchangedBits.wf = false ∧
    ({ exchangedBits with FAMILY_BIT := 0x20, SETS_PC_BIT := 0x10 } : Config).wf = false ∧
    ({ config with FAMILY_BIT := 0x10 } : Config).wf = false ∧
    ({ config with SETS_PC_BIT := 0x20 } : Config).wf = false ∧
    ({ config with OPERAND_COUNT_SHIFT := 5 } : Config).wf = false ∧
    ({ config with OPERAND_COUNT_MASK := 0b111 } : Config).wf = false := by decide

/-- The type widths are those of the configuration (00_scope.md R4). -/
theorem test_config_widths : Byte = BitVec config.XLEN ∧ Byte = BitVec config.CELL_WIDTH ∧
    Byte = BitVec config.ADDR_WIDTH ∧ Byte = BitVec config.FL_WIDTH ∧ Pc = BitVec config.PC_WIDTH ∧
    RegIdx = Fin config.NUM_REGS ∧ spIdx.val = config.SP_INDEX := ⟨rfl, rfl, rfl, rfl, rfl, rfl, rfl⟩

/-! ## A word of every instruction, written from the encoding, decodes to it -/

theorem test_decode_add : decode config [0b10100000, 0b00000011, 0b00000101, 0xFF] = .ok (.add 3 5, [0xFF]) := by decide
theorem test_decode_addi : decode config [0b10101110, 0b00000011, 0b11001000, 0xFF] = .ok (.addi 3 200, [0xFF]) := by decide
theorem test_decode_and : decode config [0b10101000, 0b00000011, 0b00000101, 0xFF] = .ok (.and 3 5, [0xFF]) := by decide
theorem test_decode_cmp : decode config [0b10100111, 0b00000011, 0b00000101, 0xFF] = .ok (.cmp 3 5, [0xFF]) := by decide
theorem test_decode_mod : decode config [0b10100100, 0b00000011, 0b00000101, 0xFF] = .ok (.mod 3 5, [0xFF]) := by decide
theorem test_decode_mul : decode config [0b10100010, 0b00000011, 0b00000101, 0xFF] = .ok (.mul 3 5, [0xFF]) := by decide
theorem test_decode_not : decode config [0b01101001, 0b00000011, 0xFF] = .ok (.not 3, [0xFF]) := by decide
theorem test_decode_or : decode config [0b10101010, 0b00000011, 0b00000101, 0xFF] = .ok (.or 3 5, [0xFF]) := by decide
theorem test_decode_shl : decode config [0b10101100, 0b00000011, 0b00000101, 0xFF] = .ok (.shl 3 5, [0xFF]) := by decide
theorem test_decode_shr : decode config [0b10101101, 0b00000011, 0b00000101, 0xFF] = .ok (.shr 3 5, [0xFF]) := by decide
theorem test_decode_xor : decode config [0b10101011, 0b00000011, 0b00000101, 0xFF] = .ok (.xor 3 5, [0xFF]) := by decide
theorem test_decode_ldi : decode config [0b10000010, 0b00000011, 0b11001000, 0xFF] = .ok (.ldi 3 200, [0xFF]) := by decide
theorem test_decode_prn : decode config [0b01000111, 0b00000011, 0xFF] = .ok (.prn 3, [0xFF]) := by decide
theorem test_decode_push : decode config [0b01000101, 0b00000011, 0xFF] = .ok (.push 3, [0xFF]) := by decide
theorem test_decode_pop : decode config [0b01000110, 0b00000011, 0xFF] = .ok (.pop 3, [0xFF]) := by decide
theorem test_decode_call : decode config [0b01010000, 0b00000011, 0xFF] = .ok (.call 3, [0xFF]) := by decide
theorem test_decode_ret : decode config [0b00010001, 0xFF] = .ok (.ret, [0xFF]) := by decide
theorem test_decode_jmp : decode config [0b01010100, 0b00000011, 0xFF] = .ok (.jmp 3, [0xFF]) := by decide
theorem test_decode_jeq : decode config [0b01010101, 0b00000011, 0xFF] = .ok (.jeq 3, [0xFF]) := by decide
theorem test_decode_jne : decode config [0b01010110, 0b00000011, 0xFF] = .ok (.jne 3, [0xFF]) := by decide
theorem test_decode_st : decode config [0b10000100, 0b00000011, 0b00000101, 0xFF] = .ok (.st 3 5, [0xFF]) := by decide
theorem test_decode_hlt : decode config [0b00000001, 0xFF] = .ok (.hlt, [0xFF]) := by decide

/-- The negative decode vectors of 95_test_vectors.md section 2.4. -/
theorem test_decode_unrecognized : [0x00#8, 0x02#8, 0x10#8, 0x13#8, 0x44#8, 0x48#8, 0x51#8, 0x52#8,
    0x57#8, 0x58#8, 0x59#8, 0x5A#8, 0x65#8, 0x66#8, 0x68#8, 0x6A#8, 0x83#8, 0x85#8, 0xA1#8, 0xA3#8,
    0xA5#8, 0xA6#8, 0xA9#8, 0xAF#8, 0xB0#8, 0xC0#8, 0xFF#8].all (fun o =>
      match decode config [o, 0, 0] with
      | .error (.unrecognizedOpcode p) => p == o
      | _ => false) = true := by decide

/-- The table word of `LDI R0,8`, its first byte in bits 7:0 (R72). -/
theorem test_table_word : decodeTableWord 24 0x080082 = some (.ldi 0 8) ∧
    decodeTableWord 8 0x080082 = some (.ldi 0 0) ∧ decodeTableWord 8 0 = none := by decide

/-! ## One step of each instruction (95_test_vectors.md section 2) -/

theorem test_add_V1 :
    stepTo (start 0 [0xA0, 0x00, 0x01] [(0, 0xC8), (1, 0x64)]) (fun t => t.readReg 0 == 0x2C && t.pc == 3 && t.fl == 0 && t.readReg 1 == 0x64) = true := by decide
theorem test_add_V3_same_register :
    stepTo (start 0 [0xA0, 0x02, 0x02] [(2, 0x81)]) (fun t => t.readReg 2 == 0x02 && t.pc == 3 && t.fl == 0) = true := by decide
theorem test_addi_V6 :
    stepTo (start 0 [0xAE, 0x00, 0xFF] [(0, 0x05)]) (fun t => t.readReg 0 == 0x04 && t.pc == 3 && t.fl == 0) = true := by decide
theorem test_addi_V45_sp :
    stepTo (start 0 [0xAE, 0x07, 0x01] []) (fun t => t.readReg 7 == 0xF5 && t.pc == 3 && t.fl == 0) = true := by decide
theorem test_and_V8 :
    stepTo (start 0 [0xA8, 0x00, 0x01] [(0, 0xCC), (1, 0xAA)]) (fun t => t.readReg 0 == 0x88 && t.pc == 3 && t.fl == 0) = true := by decide
theorem test_cmp_V13_unsigned :
    stepTo (start 0 [0xA7, 0x00, 0x01] [(0, 0x80), (1, 0x7F)]) (fun t => t.fl == 0x02 && t.pc == 3) = true := by decide
theorem test_cmp_V14_overwrites :
    stepTo ((start 0 [0xA7, 0x00, 0x01] [(1, 0xFF)]).writeFl 0x01) (fun t => t.fl == 0x04 && t.pc == 3) = true := by decide
theorem test_mod_V19 :
    stepTo (start 0 [0xA4, 0x00, 0x01] [(0, 0xFF), (1, 0x80)]) (fun t => t.readReg 0 == 0x7F && t.pc == 3 && t.fl == 0) = true := by decide
theorem test_mod_V20_zero :
    stepTo (start 0 [0xA4, 0x00, 0x01] [(0, 0x07)]) (fun t => faultedWith .divideByZero 0 (some 0xA4) t && t.readReg 0 == 0x07 && t.pc == 0) = true := by decide
theorem test_mul_V23 :
    stepTo (start 0 [0xA2, 0x00, 0x01] [(0, 0xC8), (1, 0x03)]) (fun t => t.readReg 0 == 0x58 && t.pc == 3 && t.fl == 0) = true := by decide
theorem test_not_V30_third_byte :
    stepTo (start 0 [0x69, 0x00, 0xFF] [(0, 0xA5)]) (fun t => t.readReg 0 == 0x5A && t.pc == 2 && t.fl == 0) = true := by decide
theorem test_or_V31 :
    stepTo (start 0 [0xAA, 0x00, 0x01] [(0, 0xC0), (1, 0x03)]) (fun t => t.readReg 0 == 0xC3 && t.pc == 3 && t.fl == 0) = true := by decide
theorem test_shl_V35_by_255 :
    stepTo (start 0 [0xAC, 0x00, 0x01] [(0, 0xFF), (1, 0xFF)]) (fun t => t.readReg 0 == 0x00 && t.pc == 3 && t.fl == 0) = true := by decide
theorem test_shl_V37_same_register :
    stepTo (start 0 [0xAC, 0x02, 0x02] [(2, 0x03)]) (fun t => t.readReg 2 == 0x18 && t.pc == 3 && t.fl == 0) = true := by decide
theorem test_shr_V38 :
    stepTo (start 0 [0xAD, 0x00, 0x01] [(0, 0x81), (1, 0x01)]) (fun t => t.readReg 0 == 0x40 && t.pc == 3 && t.fl == 0) = true := by decide
theorem test_shr_V40_by_width :
    stepTo (start 0 [0xAD, 0x00, 0x01] [(0, 0xFF), (1, 0x08)]) (fun t => t.readReg 0 == 0x00 && t.pc == 3 && t.fl == 0) = true := by decide
theorem test_xor_V43 :
    stepTo (start 0 [0xAB, 0x00, 0x01] [(0, 0xFF), (1, 0x0F)]) (fun t => t.readReg 0 == 0xF0 && t.pc == 3 && t.fl == 0) = true := by decide
theorem test_ldi_V51_sp :
    stepTo (start 0 [0x82, 0x07, 0x80] []) (fun t => t.readReg 7 == 0x80 && t.pc == 3 && t.fl == 0) = true := by decide
theorem test_ldi_V94_at_253 :
    stepTo (start 253 [0x82, 0x00, 0x01] []) (fun t => t.readReg 0 == 0x01 && t.pc == 256) = true := by decide
theorem test_prn_V54 :
    stepTo (start 0 [0x47, 0x03] [(3, 0xFF)]) (fun t => t.out == [255] && t.pc == 2) = true := by decide
theorem test_push_V57_wraps :
    stepTo (start 0 [0x45, 0x00] [(0, 0x22), (7, 0x00)]) (fun t => t.readReg 7 == 0xFF && t.load 0xFF == 0x22 && t.pc == 2) = true := by decide
theorem test_push_V58_sp :
    stepTo (start 0 [0x45, 0x07] []) (fun t => t.readReg 7 == 0xF3 && t.load 0xF3 == 0xF3 && t.pc == 2) = true := by decide
theorem test_pop_V60_wraps :
    stepTo ((start 0 [0x46, 0x02] [(7, 0xFF)]).store 0xFF 0x66) (fun t => t.readReg 2 == 0x66 && t.readReg 7 == 0x00 && t.load 0xFF == 0x66 && t.pc == 2) = true := by decide
theorem test_pop_V61_sp :
    stepTo ((start 0 [0x46, 0x07] [(7, 0xF3)]).store 0xF3 0x40) (fun t => t.readReg 7 == 0x41 && t.pc == 2) = true := by decide
theorem test_call_V63_at_253 :
    stepTo (start 253 [0x50, 0x01] [(1, 0x20)]) (fun t => t.readReg 7 == 0xF3 && t.load 0xF3 == 0xFF && t.pc == 32 && t.readReg 1 == 0x20) = true := by decide
theorem test_call_V64_sp :
    stepTo (start 6 [0x50, 0x07] []) (fun t => t.readReg 7 == 0xF3 && t.load 0xF3 == 0x08 && t.pc == 243) = true := by decide
theorem test_ret_V65 :
    stepTo ((start 14 [0x11] [(7, 0xF3)]).store 0xF3 0x08) (fun t => t.readReg 7 == 0xF4 && t.pc == 8) = true := by decide
theorem test_jmp_V66 :
    stepTo (start 17 [0x54, 0x02] [(2, 0x09)]) (fun t => t.pc == 9) = true := by decide
theorem test_jeq_V68_taken :
    stepTo ((start 17 [0x55, 0x02] [(2, 0x09)]).writeFl 0x01) (fun t => t.pc == 9 && t.fl == 0x01) = true := by decide
theorem test_jeq_V69_not_taken :
    stepTo ((start 17 [0x55, 0x02] [(2, 0x09)]).writeFl 0x04) (fun t => t.pc == 19 && t.fl == 0x04) = true := by decide
theorem test_jne_V72_taken :
    stepTo ((start 17 [0x56, 0x02] [(2, 0x09)]).writeFl 0x02) (fun t => t.pc == 9) = true := by decide
theorem test_jne_V73_not_taken :
    stepTo ((start 17 [0x56, 0x02] [(2, 0x09)]).writeFl 0x01) (fun t => t.pc == 19) = true := by decide
theorem test_st_V76_own_opcode :
    stepTo (start 0 [0x84, 0x00, 0x01] [(0, 0x00), (1, 0x01)]) (fun t => t.load 0x00 == 0x01 && t.pc == 3) = true := by decide
theorem test_st_V77_same_register :
    stepTo (start 0 [0x84, 0x03, 0x03] [(3, 0xF0)]) (fun t => t.load 0xF0 == 0xF0 && t.pc == 3) = true := by decide
theorem test_hlt_V78 :
    stepTo (start 5 [0x01] []) (fun t => t.status == .halted && t.pc == 6 && t.fault == none) = true := by decide
theorem test_hlt_V93_at_253 :
    stepTo (start 253 [0x01] []) (fun t => t.status == .halted && t.pc == 254) = true := by decide

/-! ## Faults (95_test_vectors.md section 2.3) -/

theorem test_fault_V80_zero_byte :
    stepTo (start 0 [0x00, 0x00, 0x00] []) (fun t => faultedWith .unrecognizedOpcode 0 (some 0x00) t && t.pc == 0) = true := by decide
theorem test_fault_V84_operands_not_judged :
    stepTo (start 0 [0xFF, 0x09, 0x09] []) (fun t => faultedWith .unrecognizedOpcode 0 (some 0xFF) t) = true := by decide
theorem test_fault_V86_operand_b :
    stepTo (start 0 [0xA0, 0x00, 0xFF] []) (fun t => faultedWith .registerIndexOutOfRange 0 (some 0xA0) t) = true := by decide
theorem test_fault_V88_push_keeps_sp :
    stepTo (start 0 [0x45, 0x09] []) (fun t => faultedWith .registerIndexOutOfRange 0 (some 0x45) t && t.readReg 7 == 0xF4) = true := by decide
theorem test_fault_V89_jeq_not_taken :
    stepTo ((start 0 [0x55, 0x09] []).writeFl 0x04) (fun t => faultedWith .registerIndexOutOfRange 0 (some 0x55) t) = true := by decide
theorem test_fault_V90_index_before_divisor :
    stepTo (start 0 [0xA4, 0x00, 0x08] [(0, 0x01)]) (fun t => faultedWith .registerIndexOutOfRange 0 (some 0xA4) t) = true := by decide
theorem test_fault_V91_at_254 :
    stepTo (start 254 [0x01] []) (fun t => faultedWith .memoryAddressOutOfRange 254 none t) = true := by decide
theorem test_fault_V94_at_256 :
    stepTo (start 256 [] []) (fun t => faultedWith .memoryAddressOutOfRange 256 none t) = true := by decide

/-- R147: a faulted machine does nothing. -/
theorem test_faulted_stays : step (State.reset.enterFault .divideByZero (some 0xA4)) =
    .next (State.reset.enterFault .divideByZero (some 0xA4)) := rfl

/-! ## Launch, output text, image text -/

/-- R172: an empty image faults at once with UnrecognizedOpcode at pc 0, opcode 0x00. -/
theorem test_empty_image : (match State.boot [] with
    | some s => stepTo s (faultedWith .unrecognizedOpcode 0 (some 0x00))
    | none => false) = true := by decide

/-- R36: byte i of the image at address i, 0x00 after it. -/
theorem test_boot : (match State.boot [0x82, 0x00, 0x08] with
    | some s => s.load 0 == 0x82 && s.load 2 == 0x08 && s.load 3 == 0x00
    | none => false) = true := by decide

/-- D12: the trace [8, 255] is the text "8", newline, "255", newline. -/
theorem test_render : renderTrace [8, 255] = ['8', '\n', '2', '5', '5', '\n'] := by decide

/-- R73: a blank line, a comment line, a line with a comment; the leftmost character is bit 7. -/
theorem test_parse_image : parseImage [[], ['#', 'x'],
    ['1', '0', '0', '0', '0', '0', '1', '0', ' ', '#', ' ', 'L']] = some [0x82] := by decide

/-- R73: seven digits are no byte. -/
theorem test_parse_malformed : parseLine ['1', '0', '0', '0', '0', '0', '1'] = none := by decide

/-- A word placed at reset runs as the very next step (V50: LDI R0,8). -/
theorem test_placed_word_runs :
    stepTo (State.reset.withFetchWord 24 0x080082) (fun t => t.readReg 0 == 8 && t.pc == 3) = true := by decide

/-- Placing a word makes a halted machine at the end of memory able to fetch it. -/
theorem test_placed_word_halted :
    stepTo (State.withFetchWord { State.reset with status := .halted, pc := 256 } 8 0x01)
      (fun t => t.status == .halted && t.pc == 1) = true := by decide

/-! ## Witnesses: concrete states and operands that meet the hypotheses of each statement -/

/-- Some next state is answered. -/
def completes (r : Result) : Bool := answers r fun _ => true

/-- Operand bytes at both ends of the legal range, and the first illegal one. -/
theorem witness_operands : (0#8).toNat = (0 : RegIdx).val ∧ (7#8).toNat = (7 : RegIdx).val ∧
    7 < (8#8).toNat ∧ 7 < (255#8).toNat := by decide

theorem witness_AddMeaning : (7#8).toNat = (7 : RegIdx).val ∧ (0#8).toNat = (0 : RegIdx).val ∧ 7 < (8#8).toNat ∧
    answers (exec (.add 7 0) State.reset) (fun t => t.status == .running) = true := by decide
theorem witness_AndMeaning : (7#8).toNat = (7 : RegIdx).val ∧ (0#8).toNat = (0 : RegIdx).val ∧ 7 < (8#8).toNat ∧
    answers (exec (.and 7 0) State.reset) (fun t => t.status == .running) = true := by decide
theorem witness_CmpMeaning : (7#8).toNat = (7 : RegIdx).val ∧ (0#8).toNat = (0 : RegIdx).val ∧ 7 < (8#8).toNat ∧
    answers (exec (.cmp 7 0) State.reset) (fun t => t.status == .running) = true := by decide
theorem witness_MulMeaning : (7#8).toNat = (7 : RegIdx).val ∧ (0#8).toNat = (0 : RegIdx).val ∧ 7 < (8#8).toNat ∧
    answers (exec (.mul 7 0) State.reset) (fun t => t.status == .running) = true := by decide
theorem witness_OrMeaning : (7#8).toNat = (7 : RegIdx).val ∧ (0#8).toNat = (0 : RegIdx).val ∧ 7 < (8#8).toNat ∧
    answers (exec (.or 7 0) State.reset) (fun t => t.status == .running) = true := by decide
theorem witness_ShlMeaning : (7#8).toNat = (7 : RegIdx).val ∧ (0#8).toNat = (0 : RegIdx).val ∧ 7 < (8#8).toNat ∧
    answers (exec (.shl 7 0) State.reset) (fun t => t.status == .running) = true := by decide
theorem witness_ShrMeaning : (7#8).toNat = (7 : RegIdx).val ∧ (0#8).toNat = (0 : RegIdx).val ∧ 7 < (8#8).toNat ∧
    answers (exec (.shr 7 0) State.reset) (fun t => t.status == .running) = true := by decide
theorem witness_XorMeaning : (7#8).toNat = (7 : RegIdx).val ∧ (0#8).toNat = (0 : RegIdx).val ∧ 7 < (8#8).toNat ∧
    answers (exec (.xor 7 0) State.reset) (fun t => t.status == .running) = true := by decide
theorem witness_StMeaning : (7#8).toNat = (7 : RegIdx).val ∧ (0#8).toNat = (0 : RegIdx).val ∧ 7 < (8#8).toNat ∧
    answers (exec (.st 7 0) State.reset) (fun t => t.status == .running) = true := by decide
theorem witness_ModMeaning : (0#8).toNat = (0 : RegIdx).val ∧ (7#8).toNat = (7 : RegIdx).val ∧ 7 < (8#8).toNat ∧
    State.reset.readReg 7 ≠ 0 ∧ State.reset.readReg 0 = 0 ∧
    answers (exec (.mod 0 7) State.reset) (fun t => t.status == .running) = true := by decide
theorem witness_AddiMeaning : (7#8).toNat = (7 : RegIdx).val ∧ 7 < (8#8).toNat ∧
    answers (exec (.addi 7 255) State.reset) (fun t => t.status == .running) = true := by decide
theorem witness_LdiMeaning : (7#8).toNat = (7 : RegIdx).val ∧ 7 < (8#8).toNat ∧
    answers (exec (.ldi 7 255) State.reset) (fun t => t.status == .running) = true := by decide
theorem witness_NotMeaning : (7#8).toNat = (7 : RegIdx).val ∧ 7 < (8#8).toNat ∧
    answers (exec (.not 7) State.reset) (fun t => t.status == .running) = true := by decide
theorem witness_PrnMeaning : (7#8).toNat = (7 : RegIdx).val ∧ 7 < (8#8).toNat ∧
    answers (exec (.prn 7) State.reset) (fun t => t.status == .running) = true := by decide
theorem witness_PushMeaning : (7#8).toNat = (7 : RegIdx).val ∧ 7 < (8#8).toNat ∧
    answers (exec (.push 7) State.reset) (fun t => t.status == .running) = true := by decide
theorem witness_PopMeaning : (7#8).toNat = (7 : RegIdx).val ∧ 7 < (8#8).toNat ∧
    answers (exec (.pop 7) State.reset) (fun t => t.status == .running) = true := by decide
theorem witness_CallMeaning : (7#8).toNat = (7 : RegIdx).val ∧ 7 < (8#8).toNat ∧ State.reset.pc.toNat ≤ 253 ∧
    answers (exec (.call 7) State.reset) (fun t => t.status == .running) = true := by decide
theorem witness_JmpMeaning : (7#8).toNat = (7 : RegIdx).val ∧ 7 < (8#8).toNat ∧
    answers (exec (.jmp 7) State.reset) (fun t => t.status == .running) = true := by decide
theorem witness_JeqMeaning : (7#8).toNat = (7 : RegIdx).val ∧ 7 < (8#8).toNat ∧
    answers (exec (.jeq 7) State.reset) (fun t => t.status == .running) = true := by decide
theorem witness_JneMeaning : (7#8).toNat = (7 : RegIdx).val ∧ 7 < (8#8).toNat ∧
    answers (exec (.jne 7) State.reset) (fun t => t.status == .running) = true := by decide
theorem witness_RetMeaning : answers (exec .ret State.reset) (fun t => t.status == .running) = true := by decide
theorem witness_HltMeaning : answers (exec .hlt State.reset) (fun t => t.status == .halted) = true := by decide
theorem witness_ResetStackPointer : (0#8).toNat = (0 : RegIdx).val ∧ (7#8).toNat = (7 : RegIdx).val ∧
    completes (exec (.push 7) State.reset) = true ∧ completes (exec (.call 7) State.reset) = true := by decide
theorem witness_BootLoadsImage : (List.replicate 256 (1#8)).length ≤ 256 ∧
    (255 : Nat) < (List.replicate 256 (1#8)).length ∧ ([1#8]).length ≤ 255 ∧
    256 < (List.replicate 257 (1#8)).length := by
  simp only [List.length_replicate, List.length_cons, List.length_nil]; omega
theorem witness_BootMeetsInvariant : (State.boot [0x01]).isSome = true := by decide
theorem witness_OpcodeBitsClassify : (0x20#8).getLsbD 5 = true ∧ (0xDF#8).getLsbD 5 = false := by decide
theorem witness_OpcodeFieldsMatchForm : config.wf = true := by decide
theorem witness_DecodeOfEncodeIsIdentity : config.wf = true := by decide
theorem witness_TwoStageLookupIsOneLookup : config.wf = true := by decide
theorem witness_EncodeOfDecodeIsIdentity : config.wf = true ∧
    decode config [0x11, 0x45] = .ok (.ret, [0x45]) := by decide
theorem witness_UnrecognizedOpcodeStops : (start 253 [0xFF] []).status = .running ∧
    (start 253 [0xFF] []).pc.toNat ≤ 253 ∧ opcodeAt (start 253 [0xFF] []) ∉ opcodes config := by decide
theorem witness_StepRunsDecodedInstruction : (start 253 [0x82, 0, 1] []).status = .running ∧
    (start 253 [0x82, 0, 1] []).pc.toNat ≤ 253 ∧
    decode config [opcodeAt (start 253 [0x82, 0, 1] []), operandA (start 253 [0x82, 0, 1] []),
      operandB (start 253 [0x82, 0, 1] [])] = .ok (.ldi 0 1, []) := by decide
theorem witness_FetchOutsideMemoryFaults : (start 254 [] []).status = .running ∧
    253 < (start 254 [] []).pc.toNat ∧ 253 < (start 256 [] []).pc.toNat := by decide
theorem witness_StoppedMachineStaysStopped : State.reset.halt.status ≠ .running ∧
    (State.reset.enterFault .divideByZero (some 0xA4)).status ≠ .running := by decide
theorem witness_FirstFaultIsTaken_causes :
    firstFault (start 254 [0x01] []) = some .memoryAddressOutOfRange ∧
    firstFault (start 253 [0x00] []) = some .unrecognizedOpcode ∧
    firstFault (start 0 [0xA0, 8, 0] []) = some .registerIndexOutOfRange ∧
    firstFault (start 0 [0xA4, 0, 8] []) = some .registerIndexOutOfRange ∧
    firstFault (start 0 [0xA4, 7, 0] []) = some .divideByZero := by decide
theorem witness_FirstFaultIsTaken_none : firstFault (start 253 [0x01, 8] []) = none ∧
    firstFault (start 0 [0xA4, 0, 7] []) = none ∧ firstFault (start 0 [0x82, 7, 255] []) = none ∧
    (start 0 [0x82, 7, 255] []).status = .running := by decide
theorem witness_IllegalRegisterOperandFaults :
    (∃ r ∈ Instr.registerOperands (.jeq 8), 7 < r.toNat) ∧
    (∃ r ∈ Instr.registerOperands (.add 0 255), 7 < r.toNat) := by decide
theorem witness_AdvanceFollowsOpcodeBits : (start 253 [] []).pc.toNat ≤ 253 ∧
    answers (exec (.ldi 0 1) (start 253 [] [])) (fun t => t.status != .faulted) = true ∧
    setsPc config (Instr.opcode config (.ldi 0 1)) = false ∧ setsPc config config.OPC_JMP = true := by decide
theorem witness_OnlyHltHalts : (start 253 [0x01] []).status = .running ∧
    stepTo (start 253 [0x01] []) (fun t => t.status == .halted) = true ∧
    stepTo (start 254 [0x01] []) (fun t => t.status == .faulted) = true := by decide
theorem witness_FlagsLifecycle : completes (exec (.jeq 0) (State.reset.writeFl 0x02)) = true ∧
    (0x04#8).getLsbD 0 = (State.reset.writeFl 0x02).fl.getLsbD 0 ∧
    answers (exec (.cmp 0 7) State.reset) (fun t => t.status == .running && t.fl == 0x04) = true := by decide
theorem witness_MemoryChangesOnlyAtTheStore :
    stepTo (start 0 [0x84, 0, 1] [(0, 0xFF), (1, 1)]) (fun t => t.load 0xFF != 0) = true ∧
    stepTo (start 0 [0x45, 7] []) (fun t => t.load 0xF3 != 0) = true := by decide
theorem witness_OutputGrowsOnlyByPrn : completes (step (start 0 [0x47, 7] [])) = true := by decide
theorem witness_StepKeepsInvariant : (start 253 [0x01] []).Inv ∧
    completes (step (start 253 [0x01] [])) = true :=
  ⟨⟨by decide, by decide, by decide, by decide, fun _ h => nomatch h⟩, by decide⟩
theorem witness_ShiftBeyondWidthGivesZero : (1#8).toNat = (1 : RegIdx).val ∧
    8 ≤ ((start 0 [] [(1, 8)]).readReg 1).toNat := by decide
theorem witness_SubtractionFromNotAddiAdd : (7#8).toNat = (7 : RegIdx).val ∧
    (0#8).toNat = (0 : RegIdx).val ∧ (7 : RegIdx) ≠ 0 := by decide
theorem witness_DivideByZeroOnlyByMod : State.reset.readReg 0 = 0 ∧ State.reset.fault = none ∧
    answers (exec (.mod 7 0) State.reset)
      (fun t => t.fault == some ⟨.divideByZero, 0, some 0xA4⟩) = true := by decide
theorem witness_PushThenPopRestores : (0#8).toNat = (0 : RegIdx).val ∧ (6#8).toNat = (6 : RegIdx).val ∧
    (0 : RegIdx) ≠ 7 ∧ (6 : RegIdx) ≠ 7 ∧
    answers (exec (.push 0) State.reset) (fun u => completes (exec (.pop 6) u)) = true := by decide
theorem witness_CallThenRetResumes : (7#8).toNat = (7 : RegIdx).val ∧ (start 253 [] []).pc.toNat ≤ 253 ∧
    answers (exec (.call 7) (start 253 [] [])) (fun u => completes (exec .ret u)) = true := by decide
theorem witness_CompareThenBranch : (7#8).toNat = (7 : RegIdx).val ∧ (0#8).toNat = (0 : RegIdx).val ∧
    State.reset.readReg 0 = State.reset.readReg 6 ∧ State.reset.readReg 0 ≠ State.reset.readReg 7 := by decide
theorem witness_RegisterWriterFrame :
    Instr.mod 0 7 ∈ [Instr.add 0 7, .addi 0 7, .and 0 7, .mod 0 7, .mul 0 7, .not 0, .or 0 7, .shl 0 7,
      .shr 0 7, .xor 0 7, .ldi 0 7] ∧ completes (exec (.mod 0 7) State.reset) = true ∧
    Instr.wf (.mod 0 7) = true ∧ State.reset.readReg 7 ≠ 0 := by decide
theorem witness_NoStoreFrame : Instr.jne 7 ∈ [Instr.cmp 7 0, .prn 7, .jmp 7, .jeq 7, .jne 7, .hlt] ∧
    Instr.wf (.jne 7) = true ∧ completes (exec (.jne 7) State.reset) = true := by decide
theorem witness_StoreFrame : (7#8).toNat = (7 : RegIdx).val ∧ (0#8).toNat = (0 : RegIdx).val ∧
    completes (exec (.st 7 0) State.reset) = true ∧ completes (exec (.call 7) State.reset) = true ∧
    Instr.wf (.push 8) = false ∧ completes (exec (.push 8) State.reset) = true := by decide
theorem witness_PopFrame : completes (exec (.pop 7) State.reset) = true ∧ (7#8).toNat ≤ 7 ∧
    completes (exec (.pop 8) State.reset) = true ∧ 7 < (8#8).toNat ∧
    completes (exec .ret State.reset) = true := by decide
theorem witness_StoredByteIsFetched :
    answers (exec (.st 0 7) (start 0 [] [(0, 5)]))
      (fun t => t.canFetch && t.pc.toNat + 2 == (t.readReg 0).toNat && (t.fetch).isSome) = true := by decide
theorem witness_MemoryReadsDecideMemory : Memory.wf [(0, 1), (255, 2)] ∧
    Memory.wf (Memory.write (Memory.write [] 255 2) 0 1) ∧
    ∀ x, x < 256 → Memory.read [(0, 1), (255, 2)] x =
      Memory.read (Memory.write (Memory.write [] 255 2) 0 1) x :=
  ⟨by decide, by decide, fun _ _ => rfl⟩
theorem witness_PlacedWordIsExecuted : decodeTableWord 24 0x080082 = some (.ldi 0 8) ∧
    (start 253 [] []).status = .running ∧ (start 253 [] []).pc.toNat ≤ 253 := by decide

end Sys2Proof.Tests
end

section
/-! Family 10_state.md. The converse of `exec_cases`: what `exec` answers from an effect, from an illegal register operand and from a zero divisor. Then the two statements of the family: FL (R22) and SP after reset (R31). -/

namespace Sys2Proof.Machine

/-! ## What `exec` answers (the converse of `exec_cases`) -/

/-- An instruction with legal operands answers its effect, then the advance of pc (40_engine.md R85, R86). -/
theorem exec_of_effect {i : Instr} {s u : State} (h : Effect s i u) :
    exec i s = .next (u.advance (i.opcode config)) := by
  cases h with
  | add ha hb => exact formRR_of_eq _ ha hb
  | addi ha => exact formR_of_eq _ ha
  | and ha hb => exact formRR_of_eq _ ha hb
  | cmp ha hb => exact formRR_of_eq _ ha hb
  | mod ha hb hz => exact (formRR_of_eq _ ha hb).trans (if_neg hz)
  | mul ha hb => exact formRR_of_eq _ ha hb
  | not ha => exact formR_of_eq _ ha
  | or ha hb => exact formRR_of_eq _ ha hb
  | shl ha hb => exact formRR_of_eq _ ha hb
  | shr ha hb => exact formRR_of_eq _ ha hb
  | xor ha hb => exact formRR_of_eq _ ha hb
  | ldi ha => exact formR_of_eq _ ha
  | prn ha => exact formR_of_eq _ ha
  | push ha => exact formR_of_eq _ ha
  | pop ha => exact formR_of_eq _ ha
  | call ha => exact formR_of_eq _ ha
  | ret => rfl
  | jmp ha => exact formR_of_eq _ ha
  | jeq ha => exact formR_of_eq _ ha
  | jne ha => exact formR_of_eq _ ha
  | st ha hb => exact formRR_of_eq _ ha hb
  | hlt => rfl

/-- An illegal register operand is a fault of the operand check, whatever the state (40_engine.md R84). -/
theorem exec_of_illegal_operand {i : Instr} (s : State)
    (h : ∃ r ∈ i.registerOperands, 7 < r.toNat) :
    exec i s = .next (s.enterFault .registerIndexOutOfRange (some (i.opcode config))) := by
  have one {a : Byte} (h : ∃ r ∈ [a], 7 < r.toNat) : 7 < a.toNat := by simpa using h
  have two {a b : Byte} (h : ∃ r ∈ [a, b], 7 < r.toNat) : 7 < a.toNat ∨ 7 < b.toNat := by
    simpa using h
  have zero (h : ∃ r ∈ ([] : List Byte), 7 < r.toNat) : False := by simp at h
  cases i with
  | add => exact formRR_of_gt _ (two h)
  | addi => exact formR_of_gt _ (one h)
  | and => exact formRR_of_gt _ (two h)
  | cmp => exact formRR_of_gt _ (two h)
  | mod => exact formRR_of_gt _ (two h)
  | mul => exact formRR_of_gt _ (two h)
  | not => exact formR_of_gt _ (one h)
  | or => exact formRR_of_gt _ (two h)
  | shl => exact formRR_of_gt _ (two h)
  | shr => exact formRR_of_gt _ (two h)
  | xor => exact formRR_of_gt _ (two h)
  | ldi => exact formR_of_gt _ (one h)
  | prn => exact formR_of_gt _ (one h)
  | push => exact formR_of_gt _ (one h)
  | pop => exact formR_of_gt _ (one h)
  | call => exact formR_of_gt _ (one h)
  | ret => exact (zero h).elim
  | jmp => exact formR_of_gt _ (one h)
  | jeq => exact formR_of_gt _ (one h)
  | jne => exact formR_of_gt _ (one h)
  | st => exact formRR_of_gt _ (two h)
  | hlt => exact (zero h).elim

/-- MOD with a zero divisor takes DivideByZero and writes nothing (41_alu.md R105). -/
theorem exec_mod_of_zero {s : State} {a b : Byte} {ra rb : RegIdx} (ha : a.toNat = ra.val)
    (hb : b.toNat = rb.val) (hz : s.readReg rb = 0) :
    exec (.mod a b) s = .next (s.enterFault .divideByZero (some config.OPC_MOD)) :=
  (formRR_of_eq _ ha hb).trans (if_pos hz)

/-! ## FL (10_state.md R22) -/

/-- CMP's flags byte has exactly one of the bits E, G and L (41_alu.md R104). -/
theorem compareFlags_cases (x y : Byte) :
    compareFlags x y = 0b001 ∨ compareFlags x y = 0b010 ∨ compareFlags x y = 0b100 := by
  unfold compareFlags
  split
  · exact .inl rfl
  · split
    · exact .inr (.inl rfl)
    · exact .inr (.inr rfl)

/-- Only CMP has an effect on FL. -/
theorem Effect.fl_cases {s u : State} {i : Instr} (h : Effect s i u) :
    u.fl = s.fl ∨ (∃ a b, i = .cmp a b) ∧ (u.fl = 0b001 ∨ u.fl = 0b010 ∨ u.fl = 0b100) := by
  cases h with
  | cmp ha hb => exact .inr ⟨⟨_, _, rfl⟩, compareFlags_cases _ _⟩
  | _ => exact .inl rfl

theorem Effect.cmp_fl {s u : State} {a b : Byte} (h : Effect s (.cmp a b) u) :
    u.fl = 0b001 ∨ u.fl = 0b010 ∨ u.fl = 0b100 := by
  cases h with
  | cmp ha hb => exact compareFlags_cases _ _

theorem State.advance_writeFl (s : State) (fl opcode : Byte) :
    (s.writeFl fl).advance opcode = (s.advance opcode).writeFl fl := by
  unfold State.advance; split <;> rfl

/-- An effect from a state with another FL differs in FL alone; JEQ and JNE ask that bit E is
kept, because they choose the target by it. -/
theorem Effect.of_writeFl {s u : State} {i : Instr} {fl : Byte} (h : Effect s i u)
    (hE : (∃ a, i = .jeq a ∨ i = .jne a) → flagE fl = flagE s.fl) :
    ∃ v, Effect (s.writeFl fl) i v ∧ v = u.writeFl v.fl := by
  cases h with
  | add ha hb => exact ⟨_, .add ha hb, rfl⟩
  | addi ha => exact ⟨_, .addi ha, rfl⟩
  | and ha hb => exact ⟨_, .and ha hb, rfl⟩
  | cmp ha hb => exact ⟨_, .cmp ha hb, rfl⟩
  | mod ha hb hz => exact ⟨_, .mod ha hb hz, rfl⟩
  | mul ha hb => exact ⟨_, .mul ha hb, rfl⟩
  | not ha => exact ⟨_, .not ha, rfl⟩
  | or ha hb => exact ⟨_, .or ha hb, rfl⟩
  | shl ha hb => exact ⟨_, .shl ha hb, rfl⟩
  | shr ha hb => exact ⟨_, .shr ha hb, rfl⟩
  | xor ha hb => exact ⟨_, .xor ha hb, rfl⟩
  | ldi ha => exact ⟨_, .ldi ha, rfl⟩
  | prn ha => exact ⟨_, .prn ha, rfl⟩
  | push ha => exact ⟨_, .push ha, rfl⟩
  | pop ha => exact ⟨_, .pop ha, rfl⟩
  | call ha => exact ⟨_, .call ha, rfl⟩
  | ret => exact ⟨_, .ret, rfl⟩
  | jmp ha => exact ⟨_, .jmp ha, rfl⟩
  | jeq ha =>
    rw [← hE ⟨_, .inl rfl⟩]
    exact ⟨_, .jeq ha, rfl⟩
  | jne ha =>
    rw [← hE ⟨_, .inr rfl⟩]
    exact ⟨_, .jne ha, rfl⟩
  | st ha hb => exact ⟨_, .st ha hb, rfl⟩
  | hlt => exact ⟨_, .hlt, rfl⟩

theorem exec_fl_cases {i : Instr} {s t : State} (h : exec i s = .next t) :
    t.fl = s.fl ∨ (∃ a b, i = .cmp a b) ∧ (t.fl = 0b001 ∨ t.fl = 0b010 ∨ t.fl = 0b100) := by
  obtain ⟨-, rfl⟩ | ⟨-, rfl⟩ | ⟨u, hu, rfl⟩ := exec_cases h
  · exact .inl rfl
  · exact .inl rfl
  · simpa only [State.advance_fl] using hu.fl_cases

/-- A CMP that takes no fault leaves one of the three flag values. -/
theorem exec_cmp_fl {a b : Byte} {s t : State} (h : exec (.cmp a b) s = .next t)
    (ht : t.status = .running) : t.fl = 0b001 ∨ t.fl = 0b010 ∨ t.fl = 0b100 := by
  obtain ⟨-, rfl⟩ | ⟨-, rfl⟩ | ⟨u, hu, rfl⟩ := exec_cases h
  · cases ht
  · cases ht
  · simpa only [State.advance_fl] using hu.cmp_fl

/-- Two runs of one instruction from states that differ in FL alone end in states that differ in
FL alone: the noninterference form of R22. -/
theorem exec_writeFl {i : Instr} {s t : State} {fl : Byte} (h : exec i s = .next t)
    (hE : (∃ a, i = .jeq a ∨ i = .jne a) → flagE fl = flagE s.fl) :
    ∃ u, exec i (s.writeFl fl) = .next u ∧ u = t.writeFl u.fl := by
  obtain ⟨hr, rfl⟩ | ⟨⟨a, b, ra, rb, rfl, ha, hb, hz⟩, rfl⟩ | ⟨u, hu, rfl⟩ := exec_cases h
  · exact ⟨_, exec_of_illegal_operand _ hr, rfl⟩
  · exact ⟨_, exec_mod_of_zero ha hb hz, rfl⟩
  · obtain ⟨v, hv, hvu⟩ := hu.of_writeFl hE
    refine ⟨_, exec_of_effect hv, ?_⟩
    rw [State.advance_fl, ← State.advance_writeFl, ← hvu]

/-- Settles O21: the faults leave FL alone and do not read it, and every effect is compared, arm
by arm, with the same effect from another FL. -/
theorem flagsLifecycle : Obligations.FlagsLifecycle :=
  ⟨fun _ _ _ h => exec_fl_cases h, fun _ _ _ _ h _ ht => exec_cmp_fl h ht,
    fun _ _ _ _ h hE => exec_writeFl h hE⟩

/-! ## SP after reset (10_state.md R31) -/

/-- The byte CALL pushes is `pc + 2` reduced modulo 256, at every pc (42_control.md R124). -/
theorem State.returnAddress_eq (s : State) : s.returnAddress = BitVec.ofNat 8 (s.pc.toNat + 2) := by
  unfold State.returnAddress
  bv_omega

/-- The first push after reset decrements SP from 0xF4 to 0xF3 and writes that one cell. -/
theorem State.reset_push (value : State → Byte) :
    (State.reset.push value).sp = 0xF3 ∧
    (State.reset.push value).load 0xF3 = value State.reset.decSp ∧
    ∀ x, x ≠ 0xF3 → (State.reset.push value).load x = State.reset.load x := by
  have hsp : State.reset.decSp.sp = 0xF3 := by decide
  refine ⟨hsp, ?_, fun x hx => ?_⟩
  · rw [State.load_push, hsp, if_pos rfl]
  · rw [State.load_push, hsp, if_neg hx]

/-- Settles O1: PUSH and CALL are one push of the reset state, followed by writes of pc alone. -/
theorem resetStackPointer : Obligations.ResetStackPointer := by
  refine ⟨rfl, fun a ra ha => ⟨
    ⟨_, exec_of_effect (.push ha), ?_⟩, ⟨_, exec_of_effect (.call ha), ?_⟩⟩⟩
  · simpa only [State.sp_advance, State.load_advance, State.readReg_advance, State.readReg_push]
      using State.reset_push fun u => u.readReg ra
  · simpa only [State.sp_advance, State.load_advance, State.sp_setPc, State.load_setPc,
      State.returnAddress_eq, State.decSp_pc]
      using State.reset_push fun u => u.returnAddress

end Sys2Proof.Machine
end

section
/-! Family 30_encoding.md. A configuration is legal exactly when its layout is the source's, its opcodes are distinct and every instruction's opcode has the fields of that instruction; then the statement on the opcode's fields (R65). -/

namespace Sys2Proof

open Sys2Proof.Certificates

/-! ## Legal configurations, instruction by instruction (30_encoding.md R65, R68) -/

/-- The row of the field table for `i`: the opcode of `i` has the operand count, family bit and
sets-PC bit of `i` (30_encoding.md R65). -/
def Config.FieldsOf (c : Config) (i : Instr) : Prop :=
  hasFields (i.opcode c) i.operandBytes.length (aluFamily i) (writesPc i) = true

theorem Config.fieldsOf_iff (c : Config) (i : Instr) :
    c.FieldsOf i ↔ ((i.opcode c).extractLsb' 6 2).toNat = i.operandBytes.length ∧
      (i.opcode c).getLsbD 5 = aluFamily i ∧ (i.opcode c).getLsbD 4 = writesPc i :=
  hasFields_iff ..

/-- `Config.wf` groups its rows by field values; in each legal configuration every instruction
finds its own row there. -/
theorem Config.fieldsOf_of_wf {c : Config} (h : c.wf = true) (i : Instr) : c.FieldsOf i := by
  simp only [Config.wf, Bool.and_eq_true, List.all_cons, List.all_nil, and_true] at h
  obtain ⟨⟨⟨⟨⟨⟨⟨-, hadd, haddi, hand, hcmp, hmod, hmul, hor, hshl, hshr, hxor⟩, hnot⟩, hldi, hst⟩,
    hprn, hpush, hpop⟩, hcall, hjmp, hjeq, hjne⟩, hret⟩, hhlt⟩ := h
  cases i with
  | add => exact hadd
  | addi => exact haddi
  | and => exact hand
  | cmp => exact hcmp
  | mod => exact hmod
  | mul => exact hmul
  | not => exact hnot
  | or => exact hor
  | shl => exact hshl
  | shr => exact hshr
  | xor => exact hxor
  | ldi => exact hldi
  | prn => exact hprn
  | push => exact hpush
  | pop => exact hpop
  | call => exact hcall
  | ret => exact hret
  | jmp => exact hjmp
  | jeq => exact hjeq
  | jne => exact hjne
  | st => exact hst
  | hlt => exact hhlt

/-- The operand bytes do not matter to a row, so one instruction of each of the 22 kinds gives
every group of `Config.wf`. -/
theorem Config.wf_of_fieldsOf {c : Config} (hl : c.layoutWf = true) (hn : (opcodes c).Nodup)
    (hf : ∀ i, c.FieldsOf i) : c.wf = true := by
  simp only [Config.wf, Bool.and_eq_true, decide_eq_true_eq, List.all_cons, List.all_nil, and_true]
  exact ⟨⟨⟨⟨⟨⟨⟨⟨hl, hn⟩, hf (.add 0 0), hf (.addi 0 0), hf (.and 0 0), hf (.cmp 0 0), hf (.mod 0 0),
    hf (.mul 0 0), hf (.or 0 0), hf (.shl 0 0), hf (.shr 0 0), hf (.xor 0 0)⟩, hf (.not 0)⟩,
    hf (.ldi 0 0), hf (.st 0 0)⟩, hf (.prn 0), hf (.push 0), hf (.pop 0)⟩,
    hf (.call 0), hf (.jmp 0), hf (.jeq 0), hf (.jne 0)⟩, hf .ret⟩, hf .hlt⟩

theorem Config.wf_iff (c : Config) :
    c.wf = true ↔ c.layoutWf = true ∧ (opcodes c).Nodup ∧ ∀ i, c.FieldsOf i :=
  ⟨fun h => ⟨wf_layout h, wf_nodup h, fieldsOf_of_wf h⟩, fun ⟨hl, hn, hf⟩ => wf_of_fieldsOf hl hn hf⟩

/-- What the decoder reads from an instruction's opcode in a legal configuration. -/
theorem Config.decodedFields_of_wf {c : Config} (h : c.wf = true) (i : Instr) :
    operandCount c (i.opcode c) = i.operandBytes.length ∧
    isAlu c (i.opcode c) = aluFamily i ∧ setsPc c (i.opcode c) = writesPc i := by
  obtain ⟨readCount, readFamily, readSets⟩ := fields_of_layoutWf (wf_layout h) (i.opcode c)
  obtain ⟨hcount, hfamily, hsets⟩ := (c.fieldsOf_iff i).1 (fieldsOf_of_wf h i)
  exact ⟨readCount.trans hcount, readFamily.trans hfamily, readSets.trans hsets⟩

/-- Settles O7: `Config.wf_iff` with each condition written out as the bits it reads; the decoded
fields follow because the layout makes the decoder read those bits. -/
theorem opcodeFieldsMatchForm : Obligations.OpcodeFieldsMatchForm := by
  refine ⟨by decide, fun c => ?_, fun c i h => Config.decodedFields_of_wf h i⟩
  simp only [Config.wf_iff, Config.layoutWf_iff, Config.fieldsOf_iff]

end Sys2Proof
end

section
/-! Family 40_engine.md. Dispatch by the family bit (R82, R83), then one step as an equation per branch and their inversion `step_cases`; from it the three statements: the opcode's bits (R82), the advance of pc (R86) and the end of a run (R88). -/

namespace Sys2Proof

open Sys2Proof.Certificates

/-! ## Dispatch (40_engine.md R82, R83) -/

theorem config_wf : config.wf = true := opcodeFieldsMatchForm.1

/-- Settles O6: the default layout reads bits 7:6, 5 and 4, and the family bit chooses the table. -/
theorem opcodeBitsClassify : Obligations.OpcodeBitsClassify := by
  intro opcode
  obtain ⟨hcount, hfamily, hsets⟩ := fields_of_layoutWf (Config.wf_layout config_wf) opcode
  refine ⟨hcount, hfamily, hsets, fun alu => ?_, fun control => ?_⟩
  · rw [dispatch, hfamily, if_pos alu]
  · rw [dispatch, hfamily, control]
    rfl

theorem mem_of_lookup {table : List (Byte × (Byte → Byte → Instr))} {opcode : Byte}
    {build : Byte → Byte → Instr} (h : lookup table opcode = some build) :
    (opcode, build) ∈ table := by
  induction table with
  | nil => cases h
  | cons row rest ih =>
    unfold lookup at h
    split at h
    · next hrow =>
      cases hrow
      cases h
      exact List.mem_cons_self
    · exact List.mem_cons_of_mem _ (ih h)

/-- A row of either table builds instructions that have the row's opcode. -/
theorem opcode_of_mem_tables (c : Config) (a b : Byte) :
    ∀ row ∈ aluTable c ++ controlTable c, (row.2 a b).opcode c = row.1 := by
  simp [aluTable, controlTable, Instr.opcode]

/-- The instruction dispatched has the opcode it was dispatched by. -/
theorem opcode_of_dispatch {c : Config} {opcode : Byte} {build : Byte → Byte → Instr}
    (h : dispatch c opcode = some build) (a b : Byte) : (build a b).opcode c = opcode := by
  unfold dispatch at h
  split at h
  · exact opcode_of_mem_tables c a b _ (List.mem_append_left _ (mem_of_lookup h))
  · exact opcode_of_mem_tables c a b _ (List.mem_append_right _ (mem_of_lookup h))

theorem Instr.operandBytes_length_le (i : Instr) : i.operandBytes.length ≤ 2 := by
  cases i <;> simp [Instr.operandBytes]

theorem decode_of_dispatch_none {c : Config} {opcode : Byte} (h : dispatch c opcode = none)
    (rest : List Byte) : decode c (opcode :: rest) = .error (.unrecognizedOpcode opcode) := by
  simp only [decode, h]

/-- Three bytes are enough for every instruction of a legal configuration (40_engine.md R81). -/
theorem decode_of_dispatch {c : Config} (hc : c.wf = true) {opcode : Byte}
    {build : Byte → Byte → Instr} (h : dispatch c opcode = some build) (a b : Byte) :
    decode c [opcode, a, b] = .ok (build a b, [a, b].drop (operandCount c opcode)) := by
  have hcount : operandCount c opcode ≤ 2 := by
    rw [← opcode_of_dispatch h a b, (Config.decodedFields_of_wf hc _).1]
    exact Instr.operandBytes_length_le _
  have enough : ¬[a, b].length < operandCount c opcode := Nat.not_lt.2 hcount
  simp only [decode, h, if_neg enough]
  rfl

theorem Instr.opcode_eq_hlt_iff (i : Instr) : i.opcode config = config.OPC_HLT ↔ i = .hlt := by
  cases i <;> simp [Instr.opcode, config]

end Sys2Proof

namespace Sys2Proof.Machine

open Sys2Proof.Certificates

/-! ## One step, branch by branch (40_engine.md R80, R81) -/

variable {s t : State}

theorem State.canFetch_iff (s : State) : s.canFetch = true ↔ s.pc.toNat ≤ 253 := by
  have hsize : config.MEM_SIZE = 256 := rfl
  rw [State.canFetch, decide_eq_true_iff, hsize]
  omega

theorem State.fetch_of_le (h : s.pc.toNat ≤ 253) :
    s.fetch = some [opcodeAt s, operandA s, operandB s] :=
  if_pos (s.canFetch_iff.2 h)

theorem State.fetch_of_gt (h : 253 < s.pc.toNat) : s.fetch = none :=
  if_neg fun hf => by have := s.canFetch_iff.1 hf; omega

theorem step_of_not_running (h : s.status ≠ .running) : step s = .next s := by
  unfold step cycle
  split
  · next hr => exact absurd hr h
  · rfl
  · rfl

theorem step_of_gt (hr : s.status = .running) (hpc : 253 < s.pc.toNat) :
    step s = .next (s.enterFault .memoryAddressOutOfRange none) := by
  simp only [step, cycle, hr, State.fetch_of_gt hpc]
  rfl

theorem step_of_le (hr : s.status = .running) (hpc : s.pc.toNat ≤ 253) :
    step s = executeBytes [opcodeAt s, operandA s, operandB s] s := by
  simp only [step, cycle, hr, State.fetch_of_le hpc]

theorem step_of_dispatch_none (hr : s.status = .running) (hpc : s.pc.toNat ≤ 253)
    (hd : dispatch config (opcodeAt s) = none) :
    step s = .next (s.enterFault .unrecognizedOpcode (some (opcodeAt s))) := by
  rw [step_of_le hr hpc, executeBytes, decode_of_dispatch_none hd]
  rfl

theorem step_of_dispatch (hr : s.status = .running) (hpc : s.pc.toNat ≤ 253)
    {build : Byte → Byte → Instr} (hd : dispatch config (opcodeAt s) = some build) :
    step s = exec (build (operandA s) (operandB s)) s := by
  rw [step_of_le hr hpc, executeBytes, decode_of_dispatch config_wf hd]

/-- Every next state of a running machine is a fetch fault, an unrecognized-opcode fault, or what
the instruction dispatched by the opcode at pc answers. -/
theorem step_cases (hr : s.status = .running) (h : step s = .next t) :
    (253 < s.pc.toNat ∧ t = s.enterFault .memoryAddressOutOfRange none) ∨
    (s.pc.toNat ≤ 253 ∧ dispatch config (opcodeAt s) = none ∧
      t = s.enterFault .unrecognizedOpcode (some (opcodeAt s))) ∨
    (s.pc.toNat ≤ 253 ∧ ∃ build, dispatch config (opcodeAt s) = some build ∧
      exec (build (operandA s) (operandB s)) s = .next t) := by
  rcases Nat.lt_or_ge 253 s.pc.toNat with hpc | hpc
  · rw [step_of_gt hr hpc] at h
    exact .inl ⟨hpc, (Host.Outcome.next.inj h).symm⟩
  · cases hd : dispatch config (opcodeAt s) with
    | none =>
      rw [step_of_dispatch_none hr hpc hd] at h
      exact .inr (.inl ⟨hpc, rfl, (Host.Outcome.next.inj h).symm⟩)
    | some build =>
      rw [step_of_dispatch hr hpc hd] at h
      exact .inr (.inr ⟨hpc, build, rfl, h⟩)

/-! ## The advance of pc (40_engine.md R86) -/

theorem State.advance_of_setsPc (s : State) {opcode : Byte} (h : setsPc config opcode = true) :
    s.advance opcode = s :=
  if_pos h

/-- From a pc where an instruction can execute the advance stays below 512, so it is unreduced;
the operand count of any byte is at most 3. -/
theorem State.advance_pc_toNat {opcode : Byte} (hset : setsPc config opcode = false)
    (hpc : s.pc.toNat ≤ 253) :
    (s.advance opcode).pc.toNat = s.pc.toNat + 1 + operandCount config opcode := by
  have hcount : operandCount config opcode < 4 := by
    rw [(opcodeBitsClassify opcode).1]
    exact (opcode.extractLsb' 6 2).isLt
  have hadvance : s.advance opcode =
      s.setPc (s.pc + BitVec.ofNat 9 (1 + operandCount config opcode)) :=
    if_neg (by simp [hset])
  rw [hadvance, State.setPc_pc, BitVec.toNat_add, BitVec.toNat_ofNat]
  omega

/-- The effects that write pc are those of the instructions `writesPc` lists. -/
theorem Effect.pc_eq {i : Instr} {u : State} (h : Effect s i u) (hw : writesPc i = false) :
    u.pc = s.pc := by
  cases h with
  | call | ret | jmp | jeq | jne => cases hw
  | _ => rfl

/-- An instruction that takes no fault and whose sets-PC bit is clear advances pc past its bytes. -/
theorem exec_pc_of_clear {i : Instr} (hpc : s.pc.toNat ≤ 253) (h : exec i s = .next t)
    (ht : t.status ≠ .faulted) (hset : setsPc config (i.opcode config) = false) :
    t.pc.toNat = s.pc.toNat + 1 + operandCount config (i.opcode config) := by
  obtain ⟨-, rfl⟩ | ⟨-, rfl⟩ | ⟨u, hu, rfl⟩ := exec_cases h
  · exact absurd rfl ht
  · exact absurd rfl ht
  · have hw : writesPc i = false := (Config.decodedFields_of_wf config_wf i).2.2.symm.trans hset
    have hupc : u.pc = s.pc := hu.pc_eq hw
    rw [State.advance_pc_toNat hset (hupc ▸ hpc), hupc]

/-- Settles O19: no effect with the bit clear touches pc, so only the advance moves it. -/
theorem advanceFollowsOpcodeBits : Obligations.AdvanceFollowsOpcodeBits :=
  ⟨fun _ _ _ hpc h ht hset => exec_pc_of_clear hpc h ht hset,
    fun _ u hset => u.advance_of_setsPc hset⟩

/-! ## The end of a run (40_engine.md R88) -/

theorem Effect.status_eq {i : Instr} {u : State} (h : Effect s i u) :
    u.status = if i = .hlt then .halted else s.status := by
  cases h <;> rfl

/-- HLT halts; every other instruction takes a fault or leaves the status as it was. -/
theorem exec_status_cases {i : Instr} (h : exec i s = .next t) :
    (i = .hlt ∧ t.status = .halted) ∨
    (i ≠ .hlt ∧ ((∃ c o, t = s.enterFault c o) ∨ t.status = s.status)) := by
  by_cases hi : i = .hlt
  · subst hi
    rw [exec_of_effect .hlt] at h
    cases h
    exact .inl ⟨rfl, rfl⟩
  · refine .inr ⟨hi, ?_⟩
    obtain ⟨-, rfl⟩ | ⟨-, rfl⟩ | ⟨u, hu, rfl⟩ := exec_cases h
    · exact .inl ⟨_, _, rfl⟩
    · exact .inl ⟨_, _, rfl⟩
    · rw [State.advance_status, hu.status_eq, if_neg hi]
      exact .inr rfl

/-- A step of a running machine executes HLT and halts, or does not and faults or keeps running. -/
theorem step_status_cases (hr : s.status = .running) (h : step s = .next t) :
    ((s.pc.toNat ≤ 253 ∧ opcodeAt s = config.OPC_HLT) ∧ t.status = .halted) ∨
    (¬(s.pc.toNat ≤ 253 ∧ opcodeAt s = config.OPC_HLT) ∧
      ((∃ c o, t = s.enterFault c o) ∨ t.status = .running)) := by
  obtain ⟨hpc, rfl⟩ | ⟨-, hd, rfl⟩ | ⟨hpc, build, hd, hexec⟩ := step_cases hr h
  · exact .inr ⟨fun hhlt => by omega, .inl ⟨_, _, rfl⟩⟩
  · have hne : opcodeAt s ≠ config.OPC_HLT := by
      intro ho
      rw [ho] at hd
      exact absurd hd (by simp [dispatch, isAlu, lookup, controlTable, config])
    exact .inr ⟨fun hhlt => hne hhlt.2, .inl ⟨_, _, rfl⟩⟩
  · have hopcode : opcodeAt s = config.OPC_HLT ↔ build (operandA s) (operandB s) = .hlt := by
      rw [← Instr.opcode_eq_hlt_iff, opcode_of_dispatch hd]
    obtain ⟨hi, ht⟩ | ⟨hi, ht⟩ := exec_status_cases hexec
    · exact .inl ⟨⟨hpc, hopcode.2 hi⟩, ht⟩
    · exact .inr ⟨fun hhlt => hi (hopcode.1 hhlt.2), ht.imp_right fun he => he.trans hr⟩

/-- Settles O20: `step_status_cases`, and a machine that is not running answers its own state. -/
theorem onlyHltHalts : Obligations.OnlyHltHalts := by
  intro s t hr h
  have stays : t.status = .halted → step t = .next t := fun ht =>
    step_of_not_running (by simp [ht])
  obtain ⟨hhlt, ht⟩ | ⟨hhlt, ⟨c, o, rfl⟩ | ht⟩ := step_status_cases hr h
  · exact ⟨iff_of_true ht hhlt, stays, fun _ => .inl ht⟩
  · exact ⟨iff_of_false (by simp) hhlt, stays, fun _ => .inr ⟨c, o, rfl⟩⟩
  · exact ⟨iff_of_false (by simp [ht]) hhlt, stays, fun hstopped => absurd ht hstopped⟩

end Sys2Proof.Machine
end

section
/-! Family 41_alu.md. The decoder reads an encoding back; an instruction whose sets-PC bit is clear answers its effect with pc past its bytes; form RR said once; the byte operations in the words of the rules. Then the ten statements of the family. -/

namespace Sys2Proof

open Sys2Proof.Certificates

/-! ## Decoding what was encoded (30_encoding.md R60, R66, R67) -/

/-- In a table without repeated opcodes every row is found by its opcode. -/
theorem lookup_of_mem {table : List (Byte × (Byte → Byte → Instr))}
    (hn : (table.map Prod.fst).Nodup) {opcode : Byte} {build : Byte → Byte → Instr}
    (h : (opcode, build) ∈ table) : lookup table opcode = some build := by
  induction table with
  | nil => cases h
  | cons row rest ih =>
    obtain ⟨hfresh, hrest⟩ := List.nodup_cons.1 hn
    rcases List.mem_cons.1 h with rfl | hmem
    · exact if_pos rfl
    · have hne : row.1 ≠ opcode := fun he => hfresh (he ▸ List.mem_map_of_mem hmem)
      exact (if_neg hne).trans (ih hrest hmem)

/-- What the dispatch row of an instruction's kind makes of the bytes at pc + 1 and pc + 2. -/
def Instr.builder : Instr → Byte → Byte → Instr
  | .add _ _ => fun a b => .add a b
  | .addi _ _ => fun a b => .addi a b
  | .and _ _ => fun a b => .and a b
  | .cmp _ _ => fun a b => .cmp a b
  | .mod _ _ => fun a b => .mod a b
  | .mul _ _ => fun a b => .mul a b
  | .not _ => fun a _ => .not a
  | .or _ _ => fun a b => .or a b
  | .shl _ _ => fun a b => .shl a b
  | .shr _ _ => fun a b => .shr a b
  | .xor _ _ => fun a b => .xor a b
  | .ldi _ _ => fun a b => .ldi a b
  | .prn _ => fun a _ => .prn a
  | .push _ => fun a _ => .push a
  | .pop _ => fun a _ => .pop a
  | .call _ => fun a _ => .call a
  | .ret => fun _ _ => .ret
  | .jmp _ => fun a _ => .jmp a
  | .jeq _ => fun a _ => .jeq a
  | .jne _ => fun a _ => .jne a
  | .st _ _ => fun a b => .st a b
  | .hlt => fun _ _ => .hlt

theorem Instr.builder_operandBytes (i : Instr) (rest : List Byte) :
    i.builder ((i.operandBytes ++ rest).getD 0 0) ((i.operandBytes ++ rest).getD 1 0) = i := by
  cases i <;> rfl

/-- The row of an instruction stands in the table of its family. -/
theorem Instr.row_mem (c : Config) (i : Instr) :
    (i.opcode c, i.builder) ∈ if aluFamily i then aluTable c else controlTable c := by
  cases i <;> simp [aluFamily, aluTable, controlTable, Instr.opcode, Instr.builder]

theorem dispatch_opcode {c : Config} (hc : c.wf = true) (i : Instr) :
    dispatch c (i.opcode c) = some i.builder := by
  obtain ⟨-, hfamily, -⟩ := Config.decodedFields_of_wf hc i
  have hn : ((aluTable c).map Prod.fst ++ (controlTable c).map Prod.fst).Nodup :=
    Config.wf_nodup hc
  have hrow := i.row_mem c
  rw [dispatch, hfamily]
  split at hrow
  · next halu => exact (if_pos halu).trans (lookup_of_mem hn.of_append_left hrow)
  · next halu => exact (if_neg halu).trans (lookup_of_mem hn.of_append_right hrow)

/-- The decoder reads the bytes of an instruction back, whatever follows them. -/
theorem decode_encode_append {c : Config} (hc : c.wf = true) (i : Instr) (rest : List Byte) :
    decode c (encode c i ++ rest) = .ok (i, rest) := by
  have hcount : operandCount c (i.opcode c) = i.operandBytes.length :=
    (Config.decodedFields_of_wf hc i).1
  have enough : ¬(i.operandBytes ++ rest).length < operandCount c (i.opcode c) := by
    rw [hcount, List.length_append]
    omega
  simp only [encode, List.cons_append, decode, dispatch_opcode hc, if_neg enough,
    i.builder_operandBytes]
  rw [hcount, List.drop_left]

end Sys2Proof

namespace Sys2Proof.Machine

open Sys2Proof.Certificates

variable {s : State} {i : Instr} {a b : Byte}

/-! ## Meanings, form by form (40_engine.md R84 to R86) -/

/-- An instruction that does not write pc answers its effect with pc past its bytes. -/
theorem exec_of_effect_of_clear {u : State} (h : Effect s i u) (hw : writesPc i = false) :
    exec i s = .next (u.setPc (s.pc + BitVec.ofNat 9 (1 + i.operandBytes.length))) := by
  obtain ⟨hcount, -, hsets⟩ := Config.decodedFields_of_wf config_wf i
  have hclear : ¬setsPc config (i.opcode config) = true := by simp [hsets, hw]
  rw [exec_of_effect h, State.advance, if_neg hclear, hcount, h.pc_eq hw]

/-- The operand fault of form RR. -/
theorem exec_of_illegal_pair (s : State) (hr : i.registerOperands = [a, b])
    (h : 7 < a.toNat ∨ 7 < b.toNat) :
    exec i s = .next (s.enterFault .registerIndexOutOfRange (some (i.opcode config))) :=
  exec_of_illegal_operand s (by simpa [hr] using h)

/-- Form RR, whole: the encoding, the completed state and the operand fault of a three-byte
instruction that does not write pc and has the effect `effect` on every pair of registers. -/
theorem meaning_of_formRR (i : Instr) {effect : RegIdx → RegIdx → State} (ho : i.operandBytes = [a, b])
    (hr : i.registerOperands = [a, b]) (hw : writesPc i = false)
    (h : ∀ ra rb : RegIdx, a.toNat = ra.val → b.toNat = rb.val → Effect s i (effect ra rb)) :
    (∀ rest, decode config (i.opcode config :: a :: b :: rest) = .ok (i, rest)) ∧
    (∀ ra rb : RegIdx, a.toNat = ra.val → b.toNat = rb.val →
      exec i s = .next ((effect ra rb).setPc (s.pc + 3))) ∧
    (7 < a.toNat ∨ 7 < b.toNat →
      exec i s = .next (s.enterFault .registerIndexOutOfRange (some (i.opcode config)))) := by
  refine ⟨fun rest => ?_, fun ra rb ha hb => ?_, exec_of_illegal_pair s hr⟩
  · have hbytes : i.opcode config :: a :: b :: rest = encode config i ++ rest := by
      simp [encode, ho]
    exact hbytes ▸ decode_encode_append config_wf i rest
  · have hlength : i.operandBytes.length = 2 := by rw [ho]; rfl
    have hnext := exec_of_effect_of_clear (h ra rb ha hb) hw
    rwa [hlength] at hnext

/-! ## The byte operations (41_alu.md R103 to R111)
ADD, MUL, AND, OR and XOR unfold to the words of their rules. -/

/-- `BitVec.ofNat` reduces modulo 256 by itself. -/
theorem reduce_eq (n : Nat) : reduce n = BitVec.ofNat 8 n :=
  BitVec.eq_of_toNat_eq (by simp [reduce])

theorem modBytes_eq (x y : Byte) : modBytes x y = BitVec.ofNat 8 (x.toNat % y.toNat) :=
  reduce_eq _

theorem notByte_eq (x : Byte) : notByte x = BitVec.ofNat 8 (255 - x.toNat) :=
  reduce_eq _

theorem shlBytes_eq (x amount : Byte) :
    shlBytes x amount = BitVec.ofNat 8 (x.toNat * 2 ^ amount.toNat % 256) := by
  rw [shlBytes, Nat.shiftLeft_eq, reduce]

theorem shrBytes_eq (x amount : Byte) :
    shrBytes x amount = BitVec.ofNat 8 (x.toNat / 2 ^ amount.toNat) := by
  rw [shrBytes, Nat.shiftRight_eq_div_pow, reduce_eq]

/-- Bytes are equal when their unsigned values are. -/
theorem compareFlags_eq (x y : Byte) :
    compareFlags x y =
      if x = y then 0b00000001 else if x.toNat > y.toNat then 0b00000010 else 0b00000100 := by
  simp only [compareFlags, BitVec.toNat_inj]

/-! ## The statements -/

/-- Settles O25: form RR with the effect of ADD. -/
theorem addMeaning : Obligations.AddMeaning := fun a b _ =>
  ⟨rfl, meaning_of_formRR (.add a b) rfl rfl rfl fun _ _ ha hb => .add ha hb⟩

/-- Settles O27: form RR with the effect of AND. -/
theorem andMeaning : Obligations.AndMeaning := fun a b _ =>
  ⟨rfl, meaning_of_formRR (.and a b) rfl rfl rfl fun _ _ ha hb => .and ha hb⟩

/-- Settles O28: form RR with the effect of CMP, the flags by `compareFlags_eq`. -/
theorem cmpMeaning : Obligations.CmpMeaning := fun a b _ =>
  ⟨rfl, meaning_of_formRR (.cmp a b) rfl rfl rfl fun _ _ ha hb => compareFlags_eq _ _ ▸ .cmp ha hb⟩

/-- Settles O29: MOD has its effect, and a remainder below the divisor, only where the divisor is
not 0; the operand check comes before the look at the divisor. -/
theorem modMeaning : Obligations.ModMeaning := by
  refine fun a b s => ⟨rfl, decode_encode_append config_wf (.mod a b), fun ra rb ha hb hz => ⟨?_, ?_⟩,
    fun ra rb ha hb hz => exec_mod_of_zero ha hb hz, exec_of_illegal_pair s rfl⟩
  · rw [← modBytes_eq]
    exact exec_of_effect_of_clear (.mod ha hb hz) rfl
  · have hne : (s.readReg rb).toNat ≠ 0 := fun h0 => hz (BitVec.eq_of_toNat_eq h0)
    exact Nat.mod_lt _ (Nat.pos_of_ne_zero hne)

/-- Settles O30: form RR with the effect of MUL. -/
theorem mulMeaning : Obligations.MulMeaning := fun a b _ =>
  ⟨rfl, meaning_of_formRR (.mul a b) rfl rfl rfl fun _ _ ha hb => .mul ha hb⟩

/-- Settles O31: form R, two bytes, with the effect of NOT. -/
theorem notMeaning : Obligations.NotMeaning := by
  refine fun a s => ⟨rfl, decode_encode_append config_wf (.not a), fun ra ha => ?_,
    fun ha => exec_of_illegal_operand s ⟨a, List.mem_singleton_self a, ha⟩⟩
  rw [← notByte_eq]
  exact exec_of_effect_of_clear (.not ha) rfl

/-- Settles O32: form RR with the effect of OR. -/
theorem orMeaning : Obligations.OrMeaning := fun a b _ =>
  ⟨rfl, meaning_of_formRR (.or a b) rfl rfl rfl fun _ _ ha hb => .or ha hb⟩

/-- Settles O33: form RR with the effect of SHL, the shift by `shlBytes_eq`. -/
theorem shlMeaning : Obligations.ShlMeaning := fun a b _ =>
  ⟨rfl, meaning_of_formRR (.shl a b) rfl rfl rfl fun _ _ ha hb => shlBytes_eq _ _ ▸ .shl ha hb⟩

/-- Settles O34: form RR with the effect of SHR, the shift by `shrBytes_eq`. -/
theorem shrMeaning : Obligations.ShrMeaning := fun a b _ =>
  ⟨rfl, meaning_of_formRR (.shr a b) rfl rfl rfl fun _ _ ha hb => shrBytes_eq _ _ ▸ .shr ha hb⟩

/-- Settles O35: form RR with the effect of XOR. -/
theorem xorMeaning : Obligations.XorMeaning := fun a b _ =>
  ⟨rfl, meaning_of_formRR (.xor a b) rfl rfl rfl fun _ _ ha hb => .xor ha hb⟩

end Sys2Proof.Machine
end

section
/-! Family 42_control.md. A push is a decrement of SP and one store, as the rules of the stack write them; then the statements of the control family, each from its effect by what `exec` answers, form by form. -/

namespace Sys2Proof.Machine

open Sys2Proof.Certificates

variable {s : State} {i : Instr} {a : Byte}

/-! ## What `exec` answers (40_engine.md R84 to R86) -/

/-- An instruction that writes pc answers its effect: nothing advances pc after it. -/
theorem exec_of_effect_of_writesPc {u : State} (h : Effect s i u) (hw : writesPc i = true) :
    exec i s = .next u := by
  have hset : setsPc config (i.opcode config) = true :=
    (Config.decodedFields_of_wf config_wf i).2.2.trans hw
  rw [exec_of_effect h, State.advance_of_setsPc u hset]

/-- The operand fault of the forms R and RI, whose one register operand is a. -/
theorem exec_of_illegal_single (s : State) (hr : i.registerOperands = [a]) (h : 7 < a.toNat) :
    exec i s = .next (s.enterFault .registerIndexOutOfRange (some (i.opcode config))) :=
  exec_of_illegal_operand s ⟨a, by simp [hr], h⟩

/-! ## The stack pointer and the push (10_state.md R16; 42_control.md R132)
The model reduces SP modulo 256 on natural numbers; the rules below say it with byte arithmetic. -/

theorem State.decSp_eq (s : State) : s.decSp = s.writeReg 7 (s.readReg 7 - 1) := by
  have hwrap (v : Byte) : BitVec.ofNat 8 ((v.toNat + 255) % 256) = v - 1 := by bv_omega
  exact congrArg (s.writeReg 7) (hwrap (s.readReg 7))

theorem State.incSp_eq (s : State) : s.incSp = s.writeReg 7 (s.readReg 7 + 1) := by
  have hwrap (v : Byte) : BitVec.ofNat 8 ((v.toNat + 1) % 256) = v + 1 := by bv_omega
  exact congrArg (s.writeReg 7) (hwrap (s.readReg 7))

/-- The cell written is the one at the decremented SP, and the value sees the decrement. -/
theorem State.push_eq (s : State) (value : State → Byte) :
    s.push value = (s.writeReg 7 (s.readReg 7 - 1)).store (s.readReg 7 - 1)
      (value (s.writeReg 7 (s.readReg 7 - 1))) := by
  have hsp : s.decSp.sp = s.readReg 7 - 1 := by
    rw [State.decSp_eq]
    exact s.readReg_writeReg_self 7 _
  rw [State.push, hsp, State.decSp_eq]

/-- CALL's whole effect: the push of `pc + 2`, then the target read after the decrement (R124). -/
theorem State.call_eq (s : State) (ra : RegIdx) :
    (s.push fun u => u.returnAddress).setPc (zext9 ((s.push fun u => u.returnAddress).readReg ra)) =
      ((s.writeReg 7 (s.readReg 7 - 1)).store (s.readReg 7 - 1)
        (BitVec.ofNat 8 (s.pc.toNat + 2))).setPc
          (zext9 ((s.writeReg 7 (s.readReg 7 - 1)).readReg ra)) := by
  rw [State.push_eq, State.readReg_store, State.returnAddress_eq, State.writeReg_pc]

/-! ## The branch condition (42_control.md R128) -/

/-- A choice by bit E, written by the clear bit first. -/
theorem ite_flagE_eq {α : Type} (fl : Byte) (x y : α) :
    (if flagE fl then x else y) = if fl.getLsbD 0 = false then y else x := by
  unfold flagE
  cases fl.getLsbD 0 <;> rfl

/-! ## The statements -/

/-- Settles O39: form RI with the effect of LDI. -/
theorem ldiMeaning : Obligations.LdiMeaning := fun a imm s =>
  ⟨rfl, decode_encode_append config_wf (.ldi a imm),
    fun _ ha => exec_of_effect_of_clear (.ldi ha) rfl, exec_of_illegal_single s rfl⟩

/-- Settles O40: form R with the effect of PRN. -/
theorem prnMeaning : Obligations.PrnMeaning := fun a s =>
  ⟨rfl, decode_encode_append config_wf (.prn a),
    fun _ ha => exec_of_effect_of_clear (.prn ha) rfl, exec_of_illegal_single s rfl⟩

/-- Settles O41: form R with the effect of PUSH, the push by `State.push_eq`. -/
theorem pushMeaning : Obligations.PushMeaning := by
  refine fun a s => ⟨rfl, decode_encode_append config_wf (.push a), fun ra ha => ?_,
    exec_of_illegal_single s rfl⟩
  rw [← s.push_eq fun u => u.readReg ra]
  exact exec_of_effect_of_clear (.push ha) rfl

/-- Settles O42: form R with the effect of POP, the increment by `State.incSp_eq`. -/
theorem popMeaning : Obligations.PopMeaning := by
  refine fun a s => ⟨rfl, decode_encode_append config_wf (.pop a), fun ra ha => ?_,
    exec_of_illegal_single s rfl⟩
  simp only [← State.incSp_eq]
  exact exec_of_effect_of_clear (.pop ha) rfl

/-- Settles O43: form R with the effect of CALL, which writes pc; up to pc 253 the return address
fits a byte. -/
theorem callMeaning : Obligations.CallMeaning := by
  refine fun a s => ⟨rfl, decode_encode_append config_wf (.call a), fun ra ha => ?_, fun hpc => ?_,
    exec_of_illegal_single s rfl⟩
  · rw [← State.call_eq]
    exact exec_of_effect_of_writesPc (.call ha) rfl
  · exact (BitVec.toNat_ofNat ..).trans (Nat.mod_eq_of_lt (by omega))

/-- Settles O44: RET has no operand, so its effect is all it can do. -/
theorem retMeaning : Obligations.RetMeaning := by
  refine fun s => ⟨rfl, decode_encode_append config_wf .ret, ?_⟩
  rw [← State.incSp_eq]
  exact exec_of_effect_of_writesPc .ret rfl

/-- Settles O45: form R with the effect of JMP, which writes pc. -/
theorem jmpMeaning : Obligations.JmpMeaning := fun a s =>
  ⟨rfl, decode_encode_append config_wf (.jmp a),
    fun _ ha => exec_of_effect_of_writesPc (.jmp ha) rfl, exec_of_illegal_single s rfl⟩

/-- Settles O46: form R with the effect of JEQ, which writes pc on both paths. -/
theorem jeqMeaning : Obligations.JeqMeaning := fun a s =>
  ⟨rfl, decode_encode_append config_wf (.jeq a),
    fun _ ha => exec_of_effect_of_writesPc (.jeq ha) rfl, exec_of_illegal_single s rfl⟩

/-- Settles O47: form R with the effect of JNE, the two paths exchanged by `ite_flagE_eq`. -/
theorem jneMeaning : Obligations.JneMeaning := by
  refine fun a s => ⟨rfl, decode_encode_append config_wf (.jne a), fun ra ha => ?_,
    exec_of_illegal_single s rfl⟩
  rw [← ite_flagE_eq]
  exact exec_of_effect_of_writesPc (.jne ha) rfl

/-- Settles O48: form RR with the effect of ST, and the cell read back after it. -/
theorem stMeaning : Obligations.StMeaning := by
  intro a b s
  obtain ⟨hdecode, hnext, hfault⟩ :=
    meaning_of_formRR (s := s) (.st a b) rfl rfl rfl fun _ _ ha hb => .st ha hb
  refine ⟨rfl, hdecode, fun ra rb ha hb => ⟨hnext ra rb ha hb, ?_⟩, hfault⟩
  rw [State.load_setPc, State.load_store_self]

end Sys2Proof.Machine
end

section
/-! Family 60_exceptions.md. A byte that is none of the opcodes does not dispatch (R141), and no effect writes the fault record (R144). Then the two statements of the family. -/

namespace Sys2Proof

/-! ## The unrecognized bytes (60_exceptions.md R141) -/

theorem Instr.opcode_mem (c : Config) (i : Instr) : i.opcode c ∈ opcodes c := by
  cases i <;> simp [opcodes, Instr.opcode]

/-- What dispatches is the opcode of an instruction, so no other byte does. -/
theorem dispatch_eq_none {c : Config} {opcode : Byte} (h : opcode ∉ opcodes c) :
    dispatch c opcode = none := by
  cases hd : dispatch c opcode with
  | none => rfl
  | some build => exact absurd (opcode_of_dispatch hd 0 0 ▸ Instr.opcode_mem c (build 0 0)) h

/-- Distinct bytes leave all but their number of the 256 values: those among them are, in some
order, the bytes themselves. -/
theorem length_filter_range_notMem {l : List Byte} (hl : l.Nodup) :
    ((List.range 256).filter fun n => decide (BitVec.ofNat 8 n ∉ l)).length = 256 - l.length := by
  have members : ((List.range 256).filter fun n => !decide (BitVec.ofNat 8 n ∉ l)).Perm
      (l.map BitVec.toNat) := by
    refine (List.perm_ext_iff_of_nodup (List.nodup_range.filter _)
      (hl.map fun _ _ => BitVec.eq_of_toNat_eq)).2 fun n => ?_
    simp only [List.mem_filter, List.mem_range, decide_not, Bool.not_not, decide_eq_true_iff,
      List.mem_map]
    constructor
    · rintro ⟨hn, hmem⟩
      exact ⟨_, hmem, (BitVec.toNat_ofNat ..).trans (Nat.mod_eq_of_lt hn)⟩
    · rintro ⟨x, hx, rfl⟩
      exact ⟨x.isLt, by rwa [BitVec.ofNat_toNat, BitVec.setWidth_eq]⟩
  have total := List.length_eq_length_filter_add (l := List.range 256)
    fun n => decide (BitVec.ofNat 8 n ∉ l)
  rw [members.length_eq, List.length_map, List.length_range] at total
  omega

end Sys2Proof

namespace Sys2Proof.Machine

/-- Settles O12: the 22 opcodes are distinct, so 256 - 22 bytes remain, and none of them
dispatches. -/
theorem unrecognizedOpcodeStops : Obligations.UnrecognizedOpcodeStops :=
  ⟨length_filter_range_notMem (Config.wf_nodup config_wf), by decide,
    fun _ hr hpc ho => step_of_dispatch_none hr hpc (dispatch_eq_none ho)⟩

/-! ## Divide by zero (60_exceptions.md R144) -/

theorem Effect.fault_eq {s u : State} {i : Instr} (h : Effect s i u) : u.fault = s.fault := by
  cases h <;> rfl

/-- A record of DivideByZero that was not there before is the fault of a MOD with a zero divisor. -/
theorem exec_divideByZero {i : Instr} {s t : State} {f : FaultRecord} (hs : s.fault = none)
    (h : exec i s = .next t) (ht : t.fault = some f) (hf : f.cause = .divideByZero) :
    (∃ (a b : Byte) (rb : RegIdx), i = .mod a b ∧ b.toNat = rb.val ∧ s.readReg rb = 0) ∧
      t = s.enterFault .divideByZero (some config.OPC_MOD) := by
  obtain ⟨-, rfl⟩ | ⟨⟨a, b, -, rb, hi, -, hb, hz⟩, rfl⟩ | ⟨u, hu, rfl⟩ := exec_cases h
  · cases ht
    cases hf
  · exact ⟨⟨a, b, rb, hi, hb, hz⟩, rfl⟩
  · rw [State.advance_fault, hu.fault_eq, hs] at ht
    cases ht

/-- Settles O38: `exec_mod_of_zero` and its converse; the fault writes no register and keeps pc. -/
theorem divideByZeroOnlyByMod : Obligations.DivideByZeroOnlyByMod := by
  refine ⟨fun a b ra rb s ha hb hz => exec_mod_of_zero ha hb hz, fun i s t f hs h ht hf => ?_⟩
  obtain ⟨⟨a, b, rb, hi, hb, hz⟩, rfl⟩ := exec_divideByZero hs h ht hf
  exact ⟨a, b, rb, hi, hb, hz, fun _ => rfl, rfl, rfl⟩

end Sys2Proof.Machine
end

section
/-! Family other, encoding. Decoding and encoding are inverse to each other and the two dispatch tables act as one, in every legal configuration (30_encoding.md R60 to R71). -/

namespace Sys2Proof

/-! ## The dispatch row of an opcode (30_encoding.md R66, R67) -/

/-- A row that is dispatched is the row of the instructions it builds. -/
theorem builder_of_dispatch {c : Config} (hc : c.wf = true) {opcode : Byte}
    {build : Byte → Byte → Instr} (h : dispatch c opcode = some build) (a b : Byte) :
    (build a b).builder = build := by
  have hrow := dispatch_opcode hc (build a b)
  rw [opcode_of_dispatch h, h] at hrow
  exact (Option.some.inj hrow).symm

/-- A row keeps the operand bytes of its form; with the bytes it drops they are all the bytes. -/
theorem Instr.operandBytes_builder_append (i : Instr) {bytes : List Byte}
    (h : i.operandBytes.length ≤ bytes.length) :
    (i.builder (bytes.getD 0 0) (bytes.getD 1 0)).operandBytes ++ bytes.drop i.operandBytes.length =
      bytes := by
  have one (h : 1 ≤ bytes.length) : [bytes.getD 0 0] ++ bytes.drop 1 = bytes := by
    match bytes, h with
    | _ :: _, _ => rfl
  have two (h : 2 ≤ bytes.length) : [bytes.getD 0 0, bytes.getD 1 0] ++ bytes.drop 2 = bytes := by
    match bytes, h with
    | _ :: _ :: _, _ => rfl
  cases i with
  | ret | hlt => rfl
  | not | prn | push | pop | call | jmp | jeq | jne => exact one h
  | _ => exact two h

/-- What decodes has its opcode first, then at least its operand bytes, which its own row reads
back as the instruction; the rest follows them. -/
theorem decode_inversion {c : Config} (hc : c.wf = true) {bytes rest : List Byte} {i : Instr}
    (h : decode c bytes = .ok (i, rest)) :
    ∃ operands, bytes = i.opcode c :: operands ∧ i.operandBytes.length ≤ operands.length ∧
      i.builder (operands.getD 0 0) (operands.getD 1 0) = i ∧
      rest = operands.drop i.operandBytes.length := by
  cases bytes with
  | nil => cases h
  | cons opcode operands =>
    cases hd : dispatch c opcode with
    | none => rw [decode_of_dispatch_none hd] at h; cases h
    | some build =>
      simp only [decode, hd] at h
      split at h
      · cases h
      · next enough =>
        obtain ⟨hi, hrest⟩ := Prod.mk.inj (Except.ok.inj h)
        have hopcode : i.opcode c = opcode := hi ▸ opcode_of_dispatch hd _ _
        have hbuild : i.builder = build := hi ▸ builder_of_dispatch hc hd _ _
        have hcount : operandCount c opcode = i.operandBytes.length :=
          hopcode ▸ (Config.decodedFields_of_wf hc i).1
        rw [hcount] at enough hrest
        exact ⟨operands, hopcode ▸ rfl, Nat.not_lt.1 enough, hbuild ▸ hi, hrest.symm⟩

/-- The bytes of what was decoded, and the rest, are the bytes that were read (30_encoding.md R71). -/
theorem encode_append_of_decode {c : Config} (hc : c.wf = true) {bytes rest : List Byte} {i : Instr}
    (h : decode c bytes = .ok (i, rest)) : encode c i ++ rest = bytes := by
  obtain ⟨operands, rfl, enough, hi, rfl⟩ := decode_inversion hc h
  have hoperands := i.operandBytes_builder_append enough
  rw [hi] at hoperands
  exact congrArg (i.opcode c :: ·) hoperands

/-! ## One lookup among all 22 values (30_encoding.md R67) -/

/-- The opcode of an instruction selects its row in both tables together. -/
theorem lookup_tables_opcode {c : Config} (hc : c.wf = true) (i : Instr) :
    lookup (aluTable c ++ controlTable c) (i.opcode c) = some i.builder := by
  have hn : ((aluTable c ++ controlTable c).map Prod.fst).Nodup := Config.wf_nodup hc
  refine lookup_of_mem hn ?_
  have hrow := i.row_mem c
  split at hrow
  · exact List.mem_append_left _ hrow
  · exact List.mem_append_right _ hrow

/-- No byte but the 22 opcodes is in a table. -/
theorem lookup_tables_eq_none {c : Config} {opcode : Byte} (h : opcode ∉ opcodes c) :
    lookup (aluTable c ++ controlTable c) opcode = none := by
  cases hl : lookup (aluTable c ++ controlTable c) opcode with
  | none => rfl
  | some build =>
    have hopcode : (build 0 0).opcode c = opcode := opcode_of_mem_tables c 0 0 _ (mem_of_lookup hl)
    exact absurd (hopcode ▸ Instr.opcode_mem c (build 0 0)) h

theorem exists_opcode_of_mem {c : Config} {opcode : Byte} (h : opcode ∈ opcodes c) :
    ∃ i : Instr, i.opcode c = opcode := by
  have hrow : ∃ row ∈ aluTable c ++ controlTable c, row.1 = opcode :=
    List.mem_map.1 (show opcode ∈ (aluTable c ++ controlTable c).map Prod.fst from h)
  obtain ⟨row, hmem, rfl⟩ := hrow
  exact ⟨row.2 0 0, opcode_of_mem_tables c 0 0 row hmem⟩

/-! ## The statements -/

/-- Settles O9: the opcode's row rebuilds the instruction and its operand count measures the rest. -/
theorem decodeOfEncodeIsIdentity : Obligations.DecodeOfEncodeIsIdentity :=
  fun _ i rest hc => decode_encode_append hc i rest

/-- Settles O10: a row keeps exactly the operand bytes its opcode counts. -/
theorem encodeOfDecodeIsIdentity : Obligations.EncodeOfDecodeIsIdentity :=
  fun _ _ _ _ hc h => encode_append_of_decode hc h

/-- Settles O11: both searches find the row of an instruction's opcode, and no other byte is in a
table. -/
theorem twoStageLookupIsOneLookup : Obligations.TwoStageLookupIsOneLookup := by
  intro c opcode hc
  by_cases h : opcode ∈ opcodes c
  · obtain ⟨i, rfl⟩ := exists_opcode_of_mem h
    rw [dispatch_opcode hc, lookup_tables_opcode hc]
  · rw [dispatch_eq_none h, lookup_tables_eq_none h]

/-- Settles O8: each word is the encoding of its instruction, and 0 is none of the opcodes. -/
theorem sampleWordsDecode : Obligations.SampleWordsDecode :=
  ⟨decode_encode_append config_wf (.add 1 2) [], decode_encode_append config_wf (.not 3) [],
    decode_encode_append config_wf (.ldi 0 8) [], decode_encode_append config_wf (.push 5) [],
    decode_encode_append config_wf .ret [], decode_encode_append config_wf (.jne 2) [],
    decode_encode_append config_wf (.st 0 1) [], decode_encode_append config_wf .hlt [],
    decode_of_dispatch_none (dispatch_eq_none (by decide)) []⟩

end Sys2Proof
end

section
/-! Family other, the engine. Every instruction answers a next state; what a step can do is said once in `step_inversion`; then faults, the invariant and what a step leaves unchanged (40_engine.md R80 to R87, 60_exceptions.md). -/

namespace Sys2Proof

open Sys2Proof.Certificates

/-! ## Opcodes and register operands (30_encoding.md R63) -/

theorem Instr.opcode_eq_ret_iff (i : Instr) : i.opcode config = config.OPC_RET ↔ i = .ret := by
  cases i <;> simp [Instr.opcode, config]

theorem Instr.opcode_eq_mod_iff (i : Instr) :
    i.opcode config = config.OPC_MOD ↔ ∃ a b, i = .mod a b := by
  cases i <;> simp [Instr.opcode, config]

theorem Instr.usesRegisterA_iff (i : Instr) :
    UsesRegisterA (i.opcode config) ↔ i ≠ .ret ∧ i ≠ .hlt := by
  simp only [UsesRegisterA, i.opcode_mem config, true_and, ne_eq, i.opcode_eq_ret_iff,
    i.opcode_eq_hlt_iff]

/-- An instruction with a register operand is one of those whose form has operand a. -/
theorem Instr.usesRegisterA_of_mem {i : Instr} {r : Byte} (h : r ∈ i.registerOperands) :
    UsesRegisterA (i.opcode config) := by
  refine i.usesRegisterA_iff.2 ⟨?_, ?_⟩
  · rintro rfl
    cases h
  · rintro rfl
    cases h

/-- Which bytes a row checks depends on the opcode alone: a in the forms R, RR and RI, b in RR. -/
theorem Instr.illegal_builder_iff (i : Instr) (a b : Byte) :
    (∃ r ∈ (i.builder a b).registerOperands, 7 < r.toNat) ↔
      (UsesRegisterA (i.opcode config) ∧ 7 < a.toNat) ∨
      (UsesRegisterB (i.opcode config) ∧ 7 < b.toNat) := by
  rw [i.usesRegisterA_iff]
  cases i <;> simp [Instr.builder, Instr.registerOperands, Instr.opcode, config]

end Sys2Proof

namespace Sys2Proof.Machine

open Sys2Proof.Certificates

variable {s t u : State} {i : Instr}

/-! ## `exec` answers a next state (70_reset_and_hazards.md R176) -/

theorem formR_next {opcode a : Byte} {run : RegIdx → Result} (h : ∀ ra, ∃ t, run ra = .next t) :
    ∃ t, formR opcode a s run = .next t := by
  rcases operand_cases a with ⟨ra, ha⟩ | ha
  · rw [formR_of_eq run ha]
    exact h ra
  · exact ⟨_, formR_of_gt run ha⟩

theorem formRR_next {opcode a b : Byte} {run : RegIdx → RegIdx → Result}
    (h : ∀ ra rb, ∃ t, run ra rb = .next t) : ∃ t, formRR opcode a b s run = .next t :=
  formR_next fun ra => formR_next fun rb => h ra rb

theorem exec_next (i : Instr) (s : State) : ∃ t, exec i s = .next t := by
  cases i with
  | ret | hlt => exact ⟨_, rfl⟩
  | addi | not | ldi | prn | push | pop | call | jmp | jeq | jne =>
    exact formR_next fun _ => ⟨_, rfl⟩
  | mod =>
    refine formRR_next fun ra rb => ?_
    split
    · exact ⟨_, rfl⟩
    · exact ⟨_, rfl⟩
  | _ => exact formRR_next fun _ _ => ⟨_, rfl⟩

/-! ## The instruction fetched (40_engine.md R81, R83) -/

/-- The three bytes at pc decode to `i`. -/
def State.Fetches (s : State) (i : Instr) : Prop :=
  ∃ rest, decode config [opcodeAt s, operandA s, operandB s] = .ok (i, rest)

theorem State.Fetches.opcode_eq (h : s.Fetches i) : i.opcode config = opcodeAt s := by
  obtain ⟨rest, h⟩ := h
  obtain ⟨operands, hbytes, -⟩ := decode_inversion config_wf h
  exact (List.cons.inj hbytes).1.symm

theorem State.Fetches.builder_eq (h : s.Fetches i) :
    i.builder (operandA s) (operandB s) = i := by
  obtain ⟨rest, h⟩ := h
  obtain ⟨operands, hbytes, -, hi, -⟩ := decode_inversion config_wf h
  rwa [← (List.cons.inj hbytes).2] at hi

theorem State.fetches_of_dispatch {build : Byte → Byte → Instr}
    (h : dispatch config (opcodeAt s) = some build) :
    s.Fetches (build (operandA s) (operandB s)) :=
  ⟨_, decode_of_dispatch config_wf h _ _⟩

theorem State.exists_fetches_of_mem (h : opcodeAt s ∈ opcodes config) : ∃ i, s.Fetches i := by
  obtain ⟨i, hi⟩ := exists_opcode_of_mem h
  exact ⟨_, State.fetches_of_dispatch (hi ▸ dispatch_opcode config_wf i)⟩

/-- The operand check of the instruction fetched, in the words of 60_exceptions.md R143. -/
theorem State.Fetches.illegal_iff (h : s.Fetches i) :
    (∃ r ∈ i.registerOperands, 7 < r.toNat) ↔
      (UsesRegisterA (opcodeAt s) ∧ 7 < (operandA s).toNat) ∨
      (UsesRegisterB (opcodeAt s) ∧ 7 < (operandB s).toNat) := by
  have hiff := i.illegal_builder_iff (operandA s) (operandB s)
  rwa [h.builder_eq, h.opcode_eq] at hiff

theorem State.Fetches.eq_mod (h : s.Fetches i) (ho : opcodeAt s = config.OPC_MOD) :
    i = .mod (operandA s) (operandB s) := by
  obtain ⟨a, b, rfl⟩ := i.opcode_eq_mod_iff.1 (h.opcode_eq.trans ho)
  exact h.builder_eq.symm

/-- A running machine executes the instruction it fetches. -/
theorem step_of_fetches (hr : s.status = .running) (hpc : s.pc.toNat ≤ 253) (h : s.Fetches i) :
    step s = exec i s := by
  obtain ⟨rest, h⟩ := h
  rw [step_of_le hr hpc, executeBytes, h]

/-- Where the opcode at pc is one of the 22 an instruction is fetched and executed. -/
theorem exists_fetches_step (hr : s.status = .running) (hpc : s.pc.toNat ≤ 253)
    (ho : opcodeAt s ∈ opcodes config) : ∃ i, s.Fetches i ∧ step s = exec i s := by
  obtain ⟨i, hi⟩ := State.exists_fetches_of_mem ho
  exact ⟨i, hi, step_of_fetches hr hpc hi⟩

/-! ## What a step can do -/

/-- A fault `exec` takes leaves a record that fits (60_exceptions.md R140). -/
theorem exec_inversion (h : exec i s = .next t) :
    (∃ c o, FaultRecord.Fits ⟨c, s.pc, o⟩ s.pc ∧ t = s.enterFault c o) ∨
    ∃ u, Effect s i u ∧ t = u.advance (i.opcode config) := by
  obtain ⟨⟨r, hmem, -⟩, rfl⟩ | ⟨-, rfl⟩ | heffect := exec_cases h
  · exact .inl ⟨.registerIndexOutOfRange, _, ⟨rfl, _, rfl, Instr.usesRegisterA_of_mem hmem⟩, rfl⟩
  · exact .inl ⟨.divideByZero, _, ⟨rfl, rfl⟩, rfl⟩
  · exact .inr heffect

/-- A stopped machine stays as it is; a running one takes a fault, whose record fits, or makes the
effect of the instruction it fetches and advances pc. -/
theorem step_inversion (h : step s = .next t) :
    (s.status ≠ .running ∧ t = s) ∨
    (s.status = .running ∧ ∃ c o, FaultRecord.Fits ⟨c, s.pc, o⟩ s.pc ∧ t = s.enterFault c o) ∨
    (s.status = .running ∧ s.pc.toNat ≤ 253 ∧ ∃ i u, s.Fetches i ∧ Effect s i u ∧
      t = u.advance (i.opcode config)) := by
  by_cases hr : s.status = .running
  · obtain ⟨hpc, rfl⟩ | ⟨-, hd, rfl⟩ | ⟨hpc, build, hd, hexec⟩ := step_cases hr h
    · exact .inr (.inl ⟨hr, .memoryAddressOutOfRange, _, ⟨rfl, by omega, rfl⟩, rfl⟩)
    · have ho : opcodeAt s ∉ opcodes config := fun ho => by
        obtain ⟨i, hi⟩ := exists_opcode_of_mem ho
        rw [← hi, dispatch_opcode config_wf] at hd
        cases hd
      exact .inr (.inl ⟨hr, .unrecognizedOpcode, _, ⟨rfl, _, rfl, ho⟩, rfl⟩)
    · obtain ⟨c, o, hfits, rfl⟩ | ⟨u, hu, rfl⟩ := exec_inversion hexec
      · exact .inr (.inl ⟨hr, c, o, hfits, rfl⟩)
      · exact .inr (.inr ⟨hr, hpc, _, u, State.fetches_of_dispatch hd, hu, rfl⟩)
  · rw [step_of_not_running hr] at h
    exact .inl ⟨hr, (Host.Outcome.next.inj h).symm⟩

/-! ## The invariant (10_state.md R18, R23, R25, R26, R29) -/

theorem State.enterFault_inv (hs : s.Inv) {c : FaultCause} {o : Option Byte}
    (hfits : FaultRecord.Fits ⟨c, s.pc, o⟩ s.pc) : (s.enterFault c o).Inv where
  pc_le := hs.pc_le
  fl_legal := hs.fl_legal
  mem_wf := hs.mem_wf
  record_iff := iff_of_true rfl rfl
  record_fits := fun _ hf => Option.some.inj hf ▸ hfits

/-- An effect ends Running or, for HLT, Halted. -/
theorem Effect.status_ne_faulted (h : Effect s i u) (hr : s.status = .running) :
    u.status ≠ .faulted := by
  rw [h.status_eq, hr]
  split
  · simp
  · simp

theorem Effect.mem_wf (h : Effect s i u) (hm : s.mem.wf) : u.mem.wf := by
  cases h with
  | push | call => exact State.push_wf _ hm
  | st => exact State.store_wf _ _ hm
  | _ => exact hm

theorem zext9_toNat_le (v : Byte) : (zext9 v).toNat ≤ 255 := by
  bv_omega

/-- What is written to pc is a byte or, on the path a branch does not take, pc + 2. -/
theorem Effect.pc_le_of_writesPc (h : Effect s i u) (hw : writesPc i = true)
    (hpc : s.pc.toNat ≤ 253) : u.pc.toNat ≤ 255 := by
  have hskip : (s.pc + 2).toNat ≤ 255 := by bv_omega
  cases h with
  | call | ret | jmp => exact zext9_toNat_le _
  | jeq =>
    rw [State.setPc_pc]
    split
    · exact zext9_toNat_le _
    · exact hskip
  | jne =>
    rw [State.setPc_pc]
    split
    · exact hskip
    · exact zext9_toNat_le _
  | _ => cases hw

/-- After an instruction pc is a byte it wrote, or at most 253 + 3. -/
theorem Effect.advance_pc_le (h : Effect s i u) (hpc : s.pc.toNat ≤ 253) :
    (u.advance (i.opcode config)).pc.toNat ≤ 256 := by
  obtain ⟨hcount, -, hsets⟩ := Config.decodedFields_of_wf config_wf i
  cases hw : writesPc i with
  | true =>
    have hle := h.pc_le_of_writesPc hw hpc
    rw [State.advance_of_setsPc u (hsets.trans hw)]
    omega
  | false =>
    have hlength := i.operandBytes_length_le
    rw [State.advance_pc_toNat (hsets.trans hw) (h.pc_eq hw ▸ hpc), h.pc_eq hw, hcount]
    omega

theorem Effect.advance_inv (hs : s.Inv) (hr : s.status = .running) (hpc : s.pc.toNat ≤ 253)
    (h : Effect s i u) : (u.advance (i.opcode config)).Inv := by
  have hrunning : s.status ≠ .faulted := by simp [hr]
  have hempty : s.fault = none := Option.not_isSome_iff_eq_none.1 (mt hs.record_iff.2 hrunning)
  have hfault : (u.advance (i.opcode config)).fault = none := by
    rw [State.advance_fault, h.fault_eq, hempty]
  have hstatus : (u.advance (i.opcode config)).status ≠ .faulted := by
    rw [State.advance_status]
    exact h.status_ne_faulted hr
  refine ⟨h.advance_pc_le hpc, ?_, ?_, ?_, ?_⟩
  · rw [State.advance_fl]
    obtain hfl | ⟨-, hfl⟩ := h.fl_cases
    · exact hfl ▸ hs.fl_legal
    · exact .inr hfl
  · rw [State.advance_mem]
    exact h.mem_wf hs.mem_wf
  · exact iff_of_false hstatus (by rw [hfault]; exact Bool.false_ne_true)
  · intro f hf
    rw [hfault] at hf
    cases hf

/-- Settles O24: a fault keeps everything but status and a record that fits; an effect keeps each
part of the invariant. -/
theorem stepKeepsInvariant : Obligations.StepKeepsInvariant := by
  intro s t hs h
  obtain ⟨-, rfl⟩ | ⟨-, c, o, hfits, rfl⟩ | ⟨hr, hpc, i, u, -, hu, rfl⟩ := step_inversion h
  · exact hs
  · exact State.enterFault_inv hs hfits
  · exact Effect.advance_inv hs hr hpc hu

/-- Settles O4: reset has pc 0, FL 0, empty memory and no record. -/
theorem resetMeetsInvariant : Obligations.ResetMeetsInvariant where
  pc_le := Nat.zero_le _
  fl_legal := .inl rfl
  mem_wf := ⟨.nil, fun _ hp => nomatch hp⟩
  record_iff := by decide
  record_fits := fun _ hf => nomatch hf

/-! ## Enabled and stopped steps (40_engine.md R80, 60_exceptions.md R147) -/

/-- Settles O13: between the decoded instruction and `exec` stands nothing. -/
theorem stepRunsDecodedInstruction : Obligations.StepRunsDecodedInstruction :=
  fun _ _ rest hr hpc h => step_of_fetches hr hpc ⟨rest, h⟩

/-- Settles O14: a pc above 253 cannot fetch. -/
theorem fetchOutsideMemoryFaults : Obligations.FetchOutsideMemoryFaults :=
  fun _ hr hpc => step_of_gt hr hpc

theorem coreRun_succ {M : Host.Core} {x y : M.State} (h : M.step x = .next y) (n : Nat) :
    M.run (n + 1) x = M.run n y := by
  rw [Host.Core.run, h]

theorem run_succ (h : step s = .next t) (n : Nat) : run (n + 1) s = run n t := by
  rw [run, h]

/-- Settles O15: by induction on the number of steps, each answering the same state. -/
theorem stoppedMachineStaysStopped : Obligations.StoppedMachineStaysStopped := by
  intro n s hs
  have hstep : step s = .next s := step_of_not_running hs
  induction n with
  | zero => exact ⟨rfl, rfl⟩
  | succ n ih =>
    obtain ⟨ihcore, ihrun⟩ := ih
    exact ⟨(coreRun_succ (M := core) hstep n).trans ihcore, (run_succ hstep n).trans ihrun⟩

/-- Settles O16: a stopped machine answers itself, a running one a fault or what `exec` answers. -/
theorem everyStepAnswersNext : Obligations.EveryStepAnswersNext := by
  intro s
  by_cases hr : s.status = .running
  · rcases Nat.lt_or_ge 253 s.pc.toNat with hpc | hpc
    · exact ⟨_, step_of_gt hr hpc⟩
    · by_cases ho : opcodeAt s ∈ opcodes config
      · obtain ⟨i, -, hstep⟩ := exists_fetches_step hr hpc ho
        exact hstep ▸ exec_next i s
      · exact ⟨_, step_of_dispatch_none hr hpc (dispatch_eq_none ho)⟩
  · exact ⟨s, step_of_not_running hr⟩

/-! ## Faults (60_exceptions.md R140 to R146) -/

/-- Settles O18: the operand check comes before every effect. -/
theorem illegalRegisterOperandFaults : Obligations.IllegalRegisterOperandFaults :=
  fun _ s h => exec_of_illegal_operand s h

/-- The first cause whose condition holds is taken, with the opcode where one was fetched. -/
theorem step_of_firstFault_some (hr : s.status = .running) {c : FaultCause}
    (h : firstFault s = some c) : step s = .next (s.enterFault c
      (if c = .memoryAddressOutOfRange then none else some (opcodeAt s))) := by
  unfold firstFault at h
  split_ifs at h with hpc ho ha hb hz
  · cases h
    exact step_of_gt hr (by omega)
  · cases h
    obtain ⟨i, hi, hstep⟩ := exists_fetches_step hr (by omega) ho
    rw [hstep, ← hi.opcode_eq]
    exact exec_of_illegal_operand s (hi.illegal_iff.2 (.inl ha))
  · cases h
    obtain ⟨i, hi, hstep⟩ := exists_fetches_step hr (by omega) ho
    rw [hstep, ← hi.opcode_eq]
    exact exec_of_illegal_operand s (hi.illegal_iff.2 (.inr hb))
  · cases h
    obtain ⟨i, hi, hstep⟩ := exists_fetches_step hr (by omega) ho
    obtain ⟨hmod, rb, hrb, hzero⟩ := hz
    have hinstr := hi.eq_mod hmod
    have legal : ¬7 < (operandA s).toNat := fun hgt => ha ⟨hmod ▸ by decide, hgt⟩
    obtain ⟨ra, hra⟩ := (operand_cases (operandA s)).resolve_right legal
    rw [hstep, hinstr, hmod]
    exact exec_mod_of_zero hra hrb hzero
  · cases h
    exact step_of_dispatch_none hr (by omega) (dispatch_eq_none ho)

/-- Where no fault condition holds the instruction fetched makes its effect. -/
theorem step_of_firstFault_none (hr : s.status = .running) (h : firstFault s = none) :
    ∃ t, step s = .next t ∧ t.status ≠ .faulted := by
  unfold firstFault at h
  split_ifs at h with hpc ho ha hb hz
  obtain ⟨i, hi, hstep⟩ := exists_fetches_step hr (by omega) ho
  obtain ⟨t, ht⟩ := exec_next i s
  refine ⟨t, hstep.trans ht, ?_⟩
  obtain ⟨hillegal, -⟩ | ⟨⟨a, b, -, rb, rfl, -, hrb, hzero⟩, -⟩ | ⟨u, hu, rfl⟩ := exec_cases ht
  · exact absurd (hi.illegal_iff.1 hillegal) (not_or.2 ⟨ha, hb⟩)
  · have hmod : opcodeAt s = config.OPC_MOD := hi.opcode_eq.symm
    obtain ⟨-, rfl⟩ := Instr.mod.inj (hi.eq_mod hmod)
    exact absurd ⟨hmod, rb, hrb, hzero⟩ hz
  · rw [State.advance_status]
    exact hu.status_ne_faulted hr

/-- Settles O17: the conditions are tested in the order of R145, each where the ones before fail. -/
theorem firstFaultIsTaken : Obligations.FirstFaultIsTaken :=
  fun _ hr => ⟨fun _ h => step_of_firstFault_some hr h, step_of_firstFault_none hr⟩

/-! ## Memory and output of a step (20_memory.md R45, 10_state.md R24) -/

theorem State.sp_decSp_eq (s : State) : s.decSp.sp = s.readReg 7 - 1 := by
  rw [State.decSp_eq]
  exact s.readReg_writeReg_self 7 _

/-- A cell that an effect changes is the one ST addresses, or the one at the decremented SP. -/
theorem Effect.store_of_load_ne (h : Effect s i u) {x : Byte} (hx : u.load x ≠ s.load x) :
    (∃ (a b : Byte) (ra : RegIdx), i = .st a b ∧ a.toNat = ra.val ∧ x = s.readReg ra) ∨
    ((∃ a, i = .push a ∨ i = .call a) ∧ x = s.readReg 7 - 1) := by
  have pushed {value : State → Byte} (hx : (s.push value).load x ≠ s.load x) :
      x = s.readReg 7 - 1 := by
    rw [← State.sp_decSp_eq]
    by_contra hne
    exact hx ((State.load_push ..).trans (if_neg hne))
  cases h with
  | push => exact .inr ⟨⟨_, .inl rfl⟩, pushed hx⟩
  | call => exact .inr ⟨⟨_, .inr rfl⟩, pushed hx⟩
  | st ha =>
    refine .inl ⟨_, _, _, rfl, ha, ?_⟩
    by_contra hne
    exact hx (State.load_store_ne _ _ hne)
  | _ => exact absurd rfl hx

/-- Only PRN has an effect on the output trace. -/
theorem Effect.out_cases (h : Effect s i u) :
    u.out = s.out ∨
    ∃ (a : Byte) (ra : RegIdx), i = .prn a ∧ a.toNat = ra.val ∧ u.out = s.out ++ [s.readReg ra] := by
  cases h with
  | prn ha => exact .inr ⟨_, _, rfl, ha, rfl⟩
  | _ => exact .inl rfl

/-- Settles O22: a stopped or faulting step changes no cell, an effect only the cell it stores to. -/
theorem memoryChangesOnlyAtTheStore : Obligations.MemoryChangesOnlyAtTheStore := by
  intro s t x h hx
  obtain ⟨-, rfl⟩ | ⟨-, c, o, -, rfl⟩ | ⟨hr, -, i, u, hi, hu, rfl⟩ := step_inversion h
  · exact absurd rfl hx
  · exact absurd rfl hx
  · rw [State.load_advance] at hx
    refine ⟨hr, ?_⟩
    obtain ⟨a, b, ra, rfl, ha, rfl⟩ | ⟨⟨a, rfl | rfl⟩, rfl⟩ := hu.store_of_load_ne hx
    · obtain ⟨rfl, -⟩ := Instr.st.inj hi.builder_eq
      exact .inl ⟨hi.opcode_eq.symm, ra, ha, rfl⟩
    · exact .inr ⟨.inl hi.opcode_eq.symm, rfl⟩
    · exact .inr ⟨.inr hi.opcode_eq.symm, rfl⟩

/-- Settles O23: a stopped or faulting step emits nothing, and of the effects only PRN's does. -/
theorem outputGrowsOnlyByPrn : Obligations.OutputGrowsOnlyByPrn := by
  intro s t h
  obtain ⟨-, rfl⟩ | ⟨-, c, o, -, rfl⟩ | ⟨hr, -, i, u, hi, hu, rfl⟩ := step_inversion h
  · exact .inl rfl
  · exact .inl rfl
  · rw [State.advance_out]
    obtain hout | ⟨a, ra, rfl, ha, hout⟩ := hu.out_cases
    · exact .inl hout
    · obtain rfl := Instr.prn.inj hi.builder_eq
      exact .inr ⟨hr, hi.opcode_eq.symm, ra, ha, hout⟩

end Sys2Proof.Machine
end

section
/-! Family other, instructions. Laws of the byte operations and of the stack, the statements that run several instructions in a row, and the frames (41_alu.md, 42_control.md). -/

namespace Sys2Proof

/-! ## Legal operands (40_engine.md R84) -/

theorem Instr.wf_eq_false_iff (i : Instr) :
    i.wf = false ↔ ∃ r ∈ i.registerOperands, 7 < r.toNat := by
  have hregs : config.NUM_REGS = 8 := rfl
  simp only [Instr.wf, List.all_eq_false, decide_eq_true_eq, hregs, Nat.not_lt, Nat.succ_le_iff]

end Sys2Proof

namespace Sys2Proof.Machine

open Sys2Proof.Certificates

variable {s t u : State} {i : Instr} {a b : Byte} {ra rb : RegIdx}

/-! ## The byte operations (41_alu.md R109 to R112) -/

theorem shlBytes_eq_zero (x : Byte) {amount : Byte} (h : 8 ≤ amount.toNat) :
    shlBytes x amount = 0 := by
  have hdvd : 256 ∣ x.toNat * 2 ^ amount.toNat := Dvd.dvd.mul_left (pow_dvd_pow 2 h) _
  rw [shlBytes_eq, Nat.mod_eq_zero_of_dvd hdvd]
  rfl

theorem shrBytes_eq_zero {x amount : Byte} (h : x.toNat < 2 ^ amount.toNat) :
    shrBytes x amount = 0 := by
  rw [shrBytes_eq, Nat.div_eq_of_lt h]
  rfl

theorem addBytes_eq (x y : Byte) : addBytes x y = x + y := by
  rw [addBytes, reduce_eq]
  bv_omega

/-- Negation by complement and increment: `x + ((255 - y) + 1) = x - y` modulo 256 (R112). -/
theorem addBytes_notByte_succ (x y : Byte) :
    addBytes x (addBytes (notByte y) 1) = x - y := by
  rw [addBytes_eq, addBytes_eq, notByte_eq]
  bv_omega

/-- CMP sets bit E exactly on equal operands (41_alu.md R104). -/
theorem flagE_compareFlags (x y : Byte) : flagE (compareFlags x y) = decide (x = y) := by
  rw [compareFlags_eq]
  split
  · next heq => simp [heq, flagE]
  · next hne =>
    split
    · simp [hne, flagE]
    · simp [hne, flagE]

/-! ## The stack (42_control.md R132, R134) -/

@[simp] theorem State.readReg_push_seven (s : State) (value : State → Byte) :
    (s.push value).readReg 7 = s.readReg 7 - 1 :=
  s.sp_decSp_eq

@[simp] theorem State.readReg_incSp_seven (s : State) : s.incSp.readReg 7 = s.readReg 7 + 1 := by
  rw [State.incSp_eq, State.readReg_writeReg_self]

/-- The cell at the new SP holds the pushed value, read after the decrement. -/
theorem State.load_push_self (s : State) (value : State → Byte) :
    (s.push value).load (s.readReg 7 - 1) = value s.decSp := by
  rw [State.load_push, State.sp_decSp_eq, if_pos rfl]

/-- POP into R7 overwrites the register before it increments it (R134). -/
theorem exec_pop (s : State) (hb : b.toNat = rb.val) :
    ∃ t, exec (.pop b) s = .next t ∧ t.readReg 7 = (if 7 = rb then s.load (s.readReg 7)
      else s.readReg 7) + 1 ∧ (rb ≠ 7 → t.readReg rb = s.load (s.readReg 7)) := by
  refine ⟨_, exec_of_effect (.pop hb), ?_, fun hne => ?_⟩
  · rw [State.readReg_advance, State.readReg_incSp_seven, State.readReg_writeReg]
    rfl
  · rw [State.readReg_advance, State.readReg_incSp _ hne, State.readReg_writeReg_self]
    rfl

/-! ## ALU statements (41_alu.md) -/

/-- Settles O26: form RI with the effect of ADDI. -/
theorem addiMeaning : Obligations.AddiMeaning := fun a imm s =>
  ⟨rfl, decode_encode_append config_wf (.addi a imm),
    fun _ ha => exec_of_effect_of_clear (.addi ha) rfl, exec_of_illegal_single s rfl⟩

/-- Settles O36: 2 to the power 8 or more divides the left shift and exceeds a byte shifted right;
`x < 2 ^ x` for SHR of a register by itself. -/
theorem shiftBeyondWidthGivesZero : Obligations.ShiftBeyondWidthGivesZero := by
  refine ⟨fun a b ra rb s ha hb hwide => ⟨⟨_, exec_of_effect (.shl ha hb), ?_⟩,
    ⟨_, exec_of_effect (.shr ha hb), ?_⟩⟩, fun a ra s ha => ⟨_, exec_of_effect (.shr ha ha), ?_⟩⟩
  · rw [State.readReg_advance, State.readReg_writeReg_self, shlBytes_eq_zero _ hwide]
  · have hpow : 2 ^ 8 ≤ 2 ^ (s.readReg rb).toNat := Nat.pow_le_pow_right (by omega) hwide
    rw [State.readReg_advance, State.readReg_writeReg_self,
      shrBytes_eq_zero (lt_of_lt_of_le (s.readReg ra).isLt hpow)]
  · rw [State.readReg_advance, State.readReg_writeReg_self, shrBytes_eq_zero Nat.lt_two_pow_self]

/-- Settles O37: three effects in a row; the two on x[b] leave x[a] alone. -/
theorem subtractionFromNotAddiAdd : Obligations.SubtractionFromNotAddiAdd := by
  intro a b ra rb s ha hb hne
  refine ⟨_, _, _, exec_of_effect (.not hb), exec_of_effect (.addi hb),
    exec_of_effect (.add ha hb), ?_⟩
  simp only [State.readReg_advance, State.readReg_writeReg_self, State.readReg_writeReg_ne _ _ hne]
  exact addBytes_notByte_succ _ _

/-! ## Control statements (42_control.md) -/

/-- Settles O49: HLT's sets-PC bit is clear, so pc advances past its one byte. -/
theorem hltMeaning : Obligations.HltMeaning := fun _ =>
  ⟨rfl, decode_encode_append config_wf .hlt, exec_of_effect_of_clear .hlt rfl⟩

/-- Settles O50: each sub-step sees the one before it, with R7 as the register named. -/
theorem stackInstructionsNamingR7 : Obligations.StackInstructionsNamingR7 := by
  intro s
  have h7 : (7 : Byte).toNat = (7 : RegIdx).val := rfl
  obtain ⟨t, hpop, hsp, -⟩ := exec_pop s h7
  refine ⟨⟨_, exec_of_effect (.push h7), ?_, ?_⟩, ⟨t, hpop, hsp⟩,
    ⟨_, exec_of_effect_of_writesPc (.call h7) rfl, ?_, ?_, ?_⟩⟩
  · rw [State.readReg_advance, State.readReg_push_seven]
  · rw [State.load_advance, State.load_push_self]
    exact s.sp_decSp_eq
  · rw [State.readReg_setPc, State.readReg_push_seven]
  · rw [State.load_setPc, State.load_push_self, State.returnAddress_eq, State.decSp_pc]
  · rw [State.setPc_pc, State.readReg_push_seven]

/-- Settles O51: POP reads the cell the PUSH stored to and undoes its decrement of SP. -/
theorem pushThenPopRestores : Obligations.PushThenPopRestores := by
  intro a b ra rb s ha hb hra hrb
  refine ⟨_, exec_of_effect (.push ha), fun v hsp hcell => ?_⟩
  simp only [State.readReg_advance, State.load_advance, State.readReg_push_seven,
    State.load_push_self, State.readReg_decSp s hra] at hsp hcell
  obtain ⟨t, hpop, hsp', hval⟩ := exec_pop v hb
  refine ⟨t, hpop, ?_, ?_⟩
  · rw [hval hrb, hsp, hcell]
  · rw [hsp', if_neg hrb.symm, hsp, sub_add_cancel]

/-- Settles O52: RET reads the return address back, which fits a byte up to pc 253. -/
theorem callThenRetResumes : Obligations.CallThenRetResumes := by
  intro a ra s ha hpc
  refine ⟨_, exec_of_effect_of_writesPc (.call ha) rfl, fun v hsp hcell =>
    ⟨_, exec_of_effect_of_writesPc .ret rfl, ?_, ?_⟩⟩
  · simp only [State.readReg_setPc, State.load_setPc, State.readReg_push_seven,
      State.load_push_self, State.returnAddress_eq, State.decSp_pc] at hsp hcell
    have htop : v.load v.sp = BitVec.ofNat 8 (s.pc.toNat + 2) := by
      rw [← hcell, ← hsp]
      rfl
    rw [State.setPc_pc, htop]
    bv_omega
  · rw [State.readReg_setPc, State.readReg_incSp_seven, hsp, State.readReg_setPc,
      State.readReg_push_seven, sub_add_cancel]

/-- Settles O53: CMP's bit E is the equality of the registers, and both branches choose by it. -/
theorem compareThenBranch : Obligations.CompareThenBranch := by
  intro a b d ra rb rd s ha hb hd
  refine ⟨_, _, _, exec_of_effect (.cmp ha hb), exec_of_effect_of_writesPc (.jeq hd) rfl,
    exec_of_effect_of_writesPc (.jne hd) rfl, fun heq => ?_, fun hne => ?_⟩
  · simp [flagE_compareFlags, heq]
  · simp [flagE_compareFlags, hne]

/-! ## Frames -/

/-- An instruction with legal operands, and no zero divisor, makes its effect. -/
theorem effect_of_exec (h : exec i s = .next t) (hwf : i.wf = true)
    (hz : ∀ (a b : Byte) (rb : RegIdx), i = .mod a b → b.toNat = rb.val → s.readReg rb ≠ 0) :
    ∃ u, Effect s i u ∧ t = u.advance (i.opcode config) := by
  obtain ⟨hillegal, -⟩ | ⟨⟨a, b, -, rb, hi, -, hb, hzero⟩, -⟩ | heffect := exec_cases h
  · rw [i.wf_eq_false_iff.2 hillegal] at hwf
    cases hwf
  · exact absurd hzero (hz a b rb hi hb)
  · exact heffect

/-- The instructions of 41_alu.md R100 but CMP, and LDI, write x[a] and nothing else. -/
theorem Effect.eq_writeReg (h : Effect s i u)
    (hi : i ∈ [Instr.add a b, .addi a b, .and a b, .mod a b, .mul a b, .not a, .or a b, .shl a b,
      .shr a b, .xor a b, .ldi a b]) :
    ∃ (ra : RegIdx) (v : Byte), a.toNat = ra.val ∧ u = s.writeReg ra v := by
  simp only [List.mem_cons, List.not_mem_nil, or_false] at hi
  rcases hi with rfl | rfl | rfl | rfl | rfl | rfl | rfl | rfl | rfl | rfl | rfl <;>
  · cases h
    exact ⟨_, _, ‹a.toNat = _›, rfl⟩

/-- CMP, PRN, the jumps and HLT write no register and no cell. -/
theorem Effect.readReg_load_eq (h : Effect s i u)
    (hi : i ∈ [Instr.cmp a b, .prn a, .jmp a, .jeq a, .jne a, .hlt]) :
    (∀ q, u.readReg q = s.readReg q) ∧ ∀ x, u.load x = s.load x := by
  cases h with
  | cmp | prn | jmp | jeq | jne | hlt => exact ⟨fun _ => rfl, fun _ => rfl⟩
  | _ => simp at hi

/-- Settles O54: a fault writes status and record alone, an effect x[a] alone. -/
theorem registerWriterFrame : Obligations.RegisterWriterFrame := by
  intro a b i s t hi h
  have keeps : (∀ q : RegIdx, q.val ≠ a.toNat → t.readReg q = s.readReg q) ∧ t.fl = s.fl ∧
      (∀ x, t.load x = s.load x) ∧ t.out = s.out := by
    obtain ⟨c, o, -, rfl⟩ | ⟨u, hu, rfl⟩ := exec_inversion h
    · exact ⟨fun _ _ => rfl, rfl, fun _ => rfl, rfl⟩
    · obtain ⟨ra, v, ha, rfl⟩ := hu.eq_writeReg hi
      refine ⟨fun q hq => ?_, State.advance_fl .., State.load_advance _ _, State.advance_out ..⟩
      have hne : q ≠ ra := fun he => hq (he ▸ ha.symm)
      rw [State.readReg_advance, State.readReg_writeReg_ne _ _ hne]
  obtain ⟨hregs, hfl, hmem, hout⟩ := keeps
  refine ⟨hregs, hfl, hmem, hout, fun hwf hz => ?_⟩
  obtain ⟨u, hu, rfl⟩ := effect_of_exec h hwf fun a' b' rb hmod hb => by
    subst hmod
    obtain ⟨rfl, rfl⟩ : a' = a ∧ b' = b := by simpa using hi
    exact hz rfl rb hb
  obtain ⟨ra, v, -, rfl⟩ := hu.eq_writeReg hi
  exact ⟨State.advance_status .., State.advance_fault ..⟩

/-- Settles O55: a fault writes status and record alone; of the six effects only CMP's writes FL,
only PRN's the trace and only HLT's the status. -/
theorem noStoreFrame : Obligations.NoStoreFrame := by
  intro a b i s t hi h
  have keeps : (∀ q, t.readReg q = s.readReg q) ∧ (∀ x, t.load x = s.load x) ∧
      (i ≠ .prn a → t.out = s.out) := by
    obtain ⟨c, o, -, rfl⟩ | ⟨u, hu, rfl⟩ := exec_inversion h
    · exact ⟨fun _ => rfl, fun _ => rfl, fun _ => rfl⟩
    · obtain ⟨hregs, hmem⟩ := hu.readReg_load_eq hi
      simp only [State.readReg_advance, State.load_advance, State.advance_out]
      refine ⟨hregs, hmem, fun hne => hu.out_cases.resolve_right ?_⟩
      rintro ⟨a', ra, rfl, -⟩
      obtain rfl : a' = a := by simpa using hi
      exact hne rfl
  obtain ⟨hregs, hmem, hout⟩ := keeps
  refine ⟨hregs, hmem, fun hne => (exec_fl_cases h).resolve_right ?_, hout, fun hwf => ?_⟩
  · rintro ⟨⟨a', b', rfl⟩, -⟩
    obtain ⟨rfl, rfl⟩ : a' = a ∧ b' = b := by simpa using hi
    exact hne rfl
  · obtain ⟨u, hu, rfl⟩ := effect_of_exec h hwf fun a' b' rb hmod => by
      subst hmod
      simp at hi
    rw [State.advance_fault, State.advance_status]
    exact ⟨hu.fault_eq, fun hne => hu.status_eq.trans (if_neg hne)⟩

/-- The frame of a push: one cell and SP. -/
theorem State.push_frame (s : State) (value : State → Byte) :
    (∀ q : RegIdx, q ≠ 7 → (s.push value).readReg q = s.readReg q) ∧
    (∀ x, x ≠ s.decSp.sp → (s.push value).load x = s.load x) :=
  ⟨fun _ hq => State.readReg_decSp s hq, fun _ hx => (State.load_push ..).trans (if_neg hx)⟩

/-- Settles O56: ST is one store, PUSH and CALL one push, and the operand fault writes no cell. -/
theorem storeFrame : Obligations.StoreFrame := by
  refine ⟨fun a b ra rb s t ha hb h => ?_, fun a ra i s t ha hi h => ?_,
    fun a b i s t hi hwf h => ?_⟩
  · rw [exec_of_effect (.st ha hb)] at h
    cases h
    refine ⟨State.readReg_advance _ _, fun x hx => ?_, State.advance_fl .., State.advance_out ..,
      State.advance_status .., State.advance_fault ..⟩
    rw [State.load_advance, State.load_store_ne _ _ hx]
  · simp only [List.mem_cons, List.not_mem_nil, or_false] at hi
    rcases hi with rfl | rfl
    · obtain ⟨hregs, hmem⟩ := s.push_frame fun u => u.readReg ra
      rw [exec_of_effect (.push ha)] at h
      cases h
      simp only [State.readReg_advance, State.load_advance]
      exact ⟨hregs, hmem, State.advance_fl .., State.advance_out .., State.advance_status ..,
        State.advance_fault ..⟩
    · obtain ⟨hregs, hmem⟩ := s.push_frame fun u => u.returnAddress
      rw [exec_of_effect_of_writesPc (.call ha) rfl] at h
      cases h
      exact ⟨hregs, hmem, rfl, rfl, rfl, rfl⟩
  · rw [exec_of_illegal_operand s (i.wf_eq_false_iff.1 hwf)] at h
    cases h
    exact ⟨fun _ => rfl, fun _ => rfl, rfl, rfl, rfl⟩

/-- Settles O57: POP writes x[a], then SP; RET writes SP and pc. -/
theorem popFrame : Obligations.PopFrame := by
  refine ⟨fun a s t h => ?_, fun s t h => ?_⟩
  · rcases operand_cases a with ⟨ra, ha⟩ | ha
    · rw [exec_of_effect (.pop ha)] at h
      cases h
      refine ⟨fun q hq h7 => ?_, State.load_advance _ _, State.advance_fl .., State.advance_out ..,
        fun _ => ⟨State.advance_status .., State.advance_fault ..⟩, fun hgt => by omega⟩
      have hne : q ≠ ra := fun he => hq (he ▸ ha.symm)
      rw [State.readReg_advance, State.readReg_incSp _ h7, State.readReg_writeReg_ne _ _ hne]
    · rw [exec_of_illegal_single s rfl ha] at h
      cases h
      exact ⟨fun _ _ _ => rfl, fun _ => rfl, rfl, rfl, fun hle => by omega,
        fun _ => ⟨fun _ => rfl, rfl⟩⟩
  · rw [exec_of_effect_of_writesPc .ret rfl] at h
    cases h
    exact ⟨fun q hq => State.readReg_incSp s hq, fun _ => rfl, rfl, rfl, rfl, rfl⟩

end Sys2Proof.Machine
end

section
/-! Family other, memory, launch and placing. What a fetch reads, memories that read alike, the launch state and the state with an instruction placed (20_memory.md, 70_reset_and_hazards.md R172). -/

namespace Sys2Proof.Machine

open Sys2Proof.Certificates

variable {s t : State}

/-! ## Fetch (20_memory.md R51) -/

/-- Byte k of a fetch is the cell at pc + k. -/
theorem State.fetch_getElem? {bytes : List Byte} (h : s.fetch = some bytes) {k : Nat} (hk : k < 3) :
    bytes[k]? = some (s.mem.read (s.pc.toNat + k)) := by
  unfold State.fetch at h
  split at h
  · cases h
    match k, hk with
    | 0, _ => rfl
    | 1, _ => rfl
    | 2, _ => rfl
  · cases h

/-- Settles O58: the fetch reads the memory that ST left. -/
theorem storedByteIsFetched : Obligations.StoredByteIsFetched := by
  intro a b ra rb s t ha hb h bytes hfetch k hk hcell
  rw [State.fetch_getElem? hfetch hk, hcell]
  rw [exec_of_effect (.st ha hb)] at h
  cases h
  rw [State.advance_mem]
  exact congrArg some (State.load_store_self ..)

/-! ## Canonical memories (10_state.md R29) -/

/-- A cell below all listed addresses is unlisted. -/
theorem Memory.read_of_lt {m : Memory} {x : Nat} (h : ∀ p ∈ m, x < p.1) :
    m.read x = config.MEM_FILL := by
  induction m with
  | nil => rfl
  | cons p rest ih =>
    obtain ⟨hp, hrest⟩ := List.forall_mem_cons.1 h
    rw [Memory.read, if_neg (Nat.ne_of_gt hp)]
    exact ih hrest

/-- The entries of a canonical memory are the cells that do not read as unlisted ones do. -/
theorem Memory.mem_iff {m : Memory} (h : m.wf) (p : Host.Cell) :
    p ∈ m ↔ m.read p.1 = p.2 ∧ p.2 ≠ config.MEM_FILL := by
  obtain ⟨x, v⟩ := p
  induction m with
  | nil =>
    refine iff_of_false List.not_mem_nil ?_
    rintro ⟨hread, hv⟩
    exact hv hread.symm
  | cons q rest ih =>
    obtain ⟨hsorted, hcells⟩ := h
    obtain ⟨hhead, hsorted⟩ := List.pairwise_cons.1 hsorted
    obtain ⟨hq, hcells⟩ := List.forall_mem_cons.1 hcells
    have hrest := ih ⟨hsorted, hcells⟩
    by_cases hx : q.1 = x
    · subst hx
      have hnot : (q.1, v) ∉ rest := fun hmem => Nat.lt_irrefl _ (hhead (q.1, v) hmem)
      rw [Memory.read, if_pos rfl, List.mem_cons, or_iff_left hnot]
      refine ⟨fun he => ?_, fun ⟨he, _⟩ => Prod.ext rfl he.symm⟩
      obtain rfl : v = q.2 := congrArg Prod.snd he
      exact ⟨rfl, hq.2⟩
    · have hne : (x, v) ≠ q := fun he => hx (he ▸ rfl)
      rw [Memory.read, if_neg hx, List.mem_cons, or_iff_right hne, hrest]

/-- Settles O59: memories that read alike have the same entries, and a strictly rising list is
determined by them. -/
theorem memoryReadsDecideMemory : Obligations.MemoryReadsDecideMemory := by
  intro m n hm hn hread
  have within {k l : Memory} (hk : k.wf) (hl : l.wf) (hread : ∀ x, x < 256 → k.read x = l.read x)
      (p : Host.Cell) (hp : p ∈ k) : p ∈ l := by
    have ⟨hlt, _⟩ := hk.2 p hp
    rwa [Memory.mem_iff hl, ← hread p.1 hlt, ← Memory.mem_iff hk]
  have members (p : Host.Cell) : p ∈ m ↔ p ∈ n :=
    ⟨within hm hn hread p, within hn hm (fun x hx => (hread x hx).symm) p⟩
  obtain ⟨hmsorted, -⟩ := hm
  obtain ⟨hnsorted, -⟩ := hn
  have hirrefl : Std.Irrefl fun p q : Host.Cell => p.1 < q.1 := ⟨fun p => Nat.lt_irrefl p.1⟩
  have hasymm : Std.Antisymm fun p q : Host.Cell => p.1 < q.1 :=
    ⟨fun _ _ hpq hqp => absurd hpq (Nat.lt_asymm hqp)⟩
  exact hmsorted.eq_of_mem_iff hnsorted members

/-! ## Reset and launch (10_state.md section 7) -/

/-- Settles O2: the fields of the reset state, register by register. -/
theorem resetDecidedValues : Obligations.ResetDecidedValues :=
  ⟨by decide, rfl, rfl, rfl, rfl, rfl, rfl, rfl, rfl, fun _ => rfl, rfl⟩

/-- A launch is reset with the image written from cell 0, and takes at most 256 bytes. -/
theorem State.boot_eq_some_iff {image : List Byte} :
    State.boot image = some t ↔ image.length ≤ config.MEM_SIZE ∧
      t = { State.reset with mem := Memory.writeBytes [] 0 image } := by
  rw [State.boot, Option.ite_none_right_eq_some, Option.some_inj, eq_comm (b := t)]
  rfl

/-- Settles O3: a cell inside the image holds its byte, any other what an empty memory reads. -/
theorem bootLoadsImage : Obligations.BootLoadsImage := by
  intro image
  refine ⟨fun hlen => ⟨_, State.boot_eq_some_iff.2 ⟨hlen, rfl⟩, fun i hi => ?_, fun i hi _ => ?_,
    rfl⟩, fun hlen => if_neg (Nat.not_le.2 hlen)⟩
  · exact (Memory.read_writeBytes ..).trans (if_pos ⟨Nat.zero_le i, by omega⟩)
  · exact (Memory.read_writeBytes ..).trans (if_neg (by omega))

/-- Settles O5: writing the image keeps the canonical form; the rest is that of reset. -/
theorem bootMeetsInvariant : Obligations.BootMeetsInvariant := by
  intro image t h
  obtain ⟨hlen, rfl⟩ := State.boot_eq_some_iff.1 h
  have hmem : (Memory.writeBytes [] 0 image).wf :=
    Memory.writeBytes_wf resetMeetsInvariant.mem_wf (by omega)
  exact { resetMeetsInvariant with mem_wf := hmem }

/-! ## Placing an instruction (70_reset_and_hazards.md R172) -/

theorem State.readyToFetch_pc_le (s : State) : s.readyToFetch.pc.toNat ≤ 253 := by
  unfold State.readyToFetch
  split
  · next hf => exact s.canFetch_iff.1 hf
  · exact Nat.zero_le _

/-- A running machine that can fetch is left as it is. -/
theorem State.readyToFetch_eq (hr : s.status = .running) (hpc : s.pc.toNat ≤ 253) :
    s.readyToFetch = s := by
  unfold State.readyToFetch
  rw [if_pos hr, if_pos (s.canFetch_iff.2 hpc), ← hr]

/-- The cells from pc upward hold the bytes placed there. -/
theorem State.read_placeAtPc (s : State) {bytes : List Byte} {k : Nat} (hk : k < bytes.length) :
    (s.placeAtPc bytes).mem.read (s.pc.toNat + k) = bytes.getD k 0 := by
  have hcell := Memory.read_writeBytes s.mem s.pc.toNat (s.pc.toNat + k) bytes
  rwa [if_pos ⟨by omega, by omega⟩, Nat.add_sub_cancel_left] at hcell

/-- Three bytes placed at pc are the three the next fetch reads. -/
theorem State.fetched_placeAtPc (s : State) (x y z : Byte) :
    opcodeAt (s.placeAtPc [x, y, z]) = x ∧ operandA (s.placeAtPc [x, y, z]) = y ∧
    operandB (s.placeAtPc [x, y, z]) = z :=
  have cell (k : Nat) (hk : k < 3) := s.read_placeAtPc (bytes := [x, y, z]) hk
  ⟨cell 0 (by omega), cell 1 (by omega), cell 2 (by omega)⟩

theorem decode_of_decodeTableWord {nbits w : Nat} {i : Instr}
    (h : decodeTableWord nbits w = some i) :
    ∃ rest, decode config (tableBytes nbits w) = .ok (i, rest) := by
  unfold decodeTableWord at h
  split at h
  · next j rest hd =>
    cases h
    exact ⟨rest, hd⟩
  · cases h

/-- Settles O60: the placed bytes are the ones fetched, and a machine that can fetch is only given
another memory. -/
theorem placedWordIsExecuted : Obligations.PlacedWordIsExecuted := by
  refine fun s nbits w => ⟨fun i hi => ?_, fun hr hpc => ?_⟩
  · refine step_of_fetches rfl s.readyToFetch_pc_le ?_
    obtain ⟨ho, ha, hb⟩ := s.readyToFetch.fetched_placeAtPc (tableByte nbits w 0)
      (tableByte nbits w 1) (tableByte nbits w 2)
    unfold State.Fetches State.withFetchWord tableBytes
    rw [ho, ha, hb]
    exact decode_of_decodeTableWord hi
  · rw [State.withFetchWord, State.readyToFetch_eq hr hpc]
    rfl

end Sys2Proof.Machine
end
